-- ==== Sys2Proof/Word.lean ====
section
/-! DEFINITION. The word types of the block: bytes, 32-bit registers, 11-bit word indices, bit strings (spec/00_scope.md
R14, R15; spec/20_memory.md R58). -/

namespace Sys2Proof

/-- One byte of a byte string (R23). -/
abbrev Byte := BitVec 8

/-- The value of one register, of one bus access and of one command word: 32 bits, bit 0 the least significant
(R14, R65). -/
abbrev Word := BitVec 32

/-- A word index, 0 to 2047 (R12, R58). -/
abbrev Idx := BitVec 11

/-- A byte offset inside the 4096-byte register window: the 12 address bits the block decodes (R48). -/
abbrev Offset := BitVec 12

/-- `Bits(n)` of R15: a sequence of bits whose position 0 is its first, most significant, bit. -/
abbrev Bits := List Bool

end Sys2Proof
end

