-- ==== Sys2Proof/Syntax.lean ====
section
/-! DEFINITION. The commands of the block, one constructor per row of spec/opcode_table.json (spec/30_encoding.md R68). -/

namespace Sys2Proof

/-- The nine commands of R68. Their only operands are SLOT (LOOKUP) and IMM11 (WORDAT), both unsigned (R67); every other
operand is a fixed register. -/
inductive Instr where
  /-- `LOOKUP s`, OP = 0x01 (R82). The SLOT field has five bits; R70 admits the values 0 to 23. -/
  | lookup (slot : BitVec 5)
  /-- `WORDAT i`, OP = 0x02 (R83). -/
  | wordat (index : Idx)
  /-- `VALIDATE`, OP = 0x03 (R96). -/
  | validate
  /-- `CHECKSUM`, OP = 0x04 (R93). -/
  | checksum
  /-- `RECOVER`, OP = 0x05 (R100). -/
  | recover
  /-- `ENCODE`, OP = 0x06 (R111). -/
  | encode
  /-- `CLRSESS`, OP = 0x07 (R105). -/
  | clrsess
  /-- `ACCUM`, OP = 0x08 (R106). -/
  | accum
  /-- `FINALIZE`, OP = 0x09 (R112). -/
  | finalize
deriving DecidableEq, Repr

end Sys2Proof
end

