-- ==== Sys2Proof/Config.lean ====
section
/-! DEFINITION. What an implementation of the block fixes (spec/10_state.md R27, spec/00_scope.md R13) and the one kind
of value the spec leaves free (spec/70_reset_and_hazards.md R143). Each is a constant with no body: no proof can lean on
its value. -/

namespace Sys2Proof.Config

/-- WORDLIST (R13, R77): the constant function from the 2048 word indices to byte strings, an open parameter of the
model. Its content is in no file of the spec (assumption log 1). -/
opaque WORDLIST : Idx → List Byte

/-- The number of the 4096-byte page the register window sits on (R48). -/
opaque basePage : Nat

/-- BASE (R13, R48): the host address of register offset 0x000, a multiple of 4096. -/
def BASE : Nat := 4096 * basePage

/-- How many clock cycles beyond the first a command keeps BUSY = 1, from the command and the values of its operand
registers (R13, R141). -/
opaque latencyBeyondOne : Instr → List Word → Nat

/-- LAT(op) (R13, R141, R149): finite, at least 1, and free to depend on the operands. No rule depends on it, and the
step does not read it: when a command completes is decided by the order of the inputs (assumption log 4). -/
def LAT (i : Instr) (operands : List Word) : Nat := latencyBeyondOne i operands + 1

/-- The draws of R143: the value the `n`-th read of a busy-locked register under a pending command returns. A free
value: nothing constrains it (assumption log 3). -/
opaque busyRead : Nat → Word

end Sys2Proof.Config
end

