-- ==== Sys2Proof/WellFormed.lean ====
section
/-! DEFINITION. Which terms of `Instr` the block's command word can carry legally (spec/30_encoding.md R69, R70). -/

namespace Sys2Proof

/-- R70: LOOKUP names one of the 24 slots; every other command is legal with every value of its operand. -/
def Instr.wellFormed : Instr → Bool
  | .lookup slot => decide (slot.toNat ≤ 23)
  | .wordat _ => true
  | .validate => true
  | .checksum => true
  | .recover => true
  | .encode => true
  | .clrsess => true
  | .accum => true
  | .finalize => true

/-- A command that some legal command word stands for. -/
abbrev Instr.WellFormed (i : Instr) : Prop := i.wellFormed = true

end Sys2Proof
end

