-- ==== Sys2Proof/Decode.lean ====
section
/-! DEFINITION. The command word, its decoder (total, rejecting by name), the legality predicate, the (match, mask) rows
and the encoder (spec/30_encoding.md R65 to R71, R74). -/

namespace Sys2Proof

/-- Why a command word is illegal (R71). The block reports every reason by the one code ILLEGAL_COMMAND. -/
inductive Illegal where
  /-- OP = 0x00 or 0x0A to 0xFF. -/
  | unknownOpcode (op : BitVec 8)
  /-- A reserved or unused field is not zero. -/
  | nonzeroField
  /-- LOOKUP with SLOT = 24 to 31. -/
  | slotOutOfRange (slot : BitVec 5)
deriving DecidableEq, Repr

/-- OP = c[7:0] (R66). -/
def opField (c : Word) : BitVec 8 := c.extractLsb' 0 8

/-- SLOT = c[12:8] (R66, R67). -/
def slotField (c : Word) : BitVec 5 := c.extractLsb' 8 5

/-- IMM11 = c[26:16] (R66, R67). -/
def imm11Field (c : Word) : Idx := c.extractLsb' 16 11

/-- The zero-field column of R68 for LOOKUP: RSVA, IMM11 and RSVB, that is c[31:13]. -/
def aboveSlot (c : Word) : BitVec 19 := c.extractLsb' 13 19

/-- The zero-field column of R68 for WORDAT, below IMM11: SLOT and RSVA, that is c[15:8]. -/
def belowImm11 (c : Word) : BitVec 8 := c.extractLsb' 8 8

/-- The zero-field column of R68 for WORDAT, above IMM11: RSVB = c[31:27]. -/
def aboveImm11 (c : Word) : BitVec 5 := c.extractLsb' 27 5

/-- The zero-field column of R68 for the commands with no operand: c[31:8]. -/
def aboveOp (c : Word) : BitVec 24 := c.extractLsb' 8 24

/-- A command with no operand: legal only when c[31:8] = 0 (R70). -/
def decodePlain (c : Word) (i : Instr) : Except Illegal Instr :=
  if aboveOp c = 0#24 then .ok i else .error .nonzeroField

/-- The decoder (R68 to R71). It reads the word alone (R65) and answers for every 32-bit word. -/
def decode (c : Word) : Except Illegal Instr :=
  match (opField c).toNat with
  | 1 =>
    if aboveSlot c = 0#19 then
      if (slotField c).toNat ≤ 23 then .ok (.lookup (slotField c)) else .error (.slotOutOfRange (slotField c))
    else .error .nonzeroField
  | 2 =>
    if aboveImm11 c = 0#5 ∧ belowImm11 c = 0#8 then .ok (.wordat (imm11Field c)) else .error .nonzeroField
  | 3 => decodePlain c .validate
  | 4 => decodePlain c .checksum
  | 5 => decodePlain c .recover
  | 6 => decodePlain c .encode
  | 7 => decodePlain c .clrsess
  | 8 => decodePlain c .accum
  | 9 => decodePlain c .finalize
  | _ => .error (.unknownOpcode (opField c))

/-- `legal(c)`, field by field as R70 writes it. -/
def legal (c : Word) : Bool :=
  let op := (opField c).toNat
  if op = 1 then decide (aboveSlot c = 0#19) && decide ((slotField c).toNat ≤ 23)
  else if op = 2 then decide (aboveImm11 c = 0#5) && decide (belowImm11 c = 0#8)
  else if 3 ≤ op ∧ op ≤ 9 then decide (aboveOp c = 0#24)
  else false

/-- One row of the decode table of R69. -/
structure OpRow where
  mnemonic : String
  matchBits : Word
  mask : Word
  /-- The extra condition SLOT ≤ 23 of LOOKUP's row. -/
  slotBound : Bool
deriving DecidableEq, Repr

/-- The nine rows of R69. -/
def opRows : List OpRow :=
  [ ⟨"LOOKUP", 0x00000001#32, 0xFFFFE0FF#32, true⟩,
    ⟨"WORDAT", 0x00000002#32, 0xF800FFFF#32, false⟩,
    ⟨"VALIDATE", 0x00000003#32, 0xFFFFFFFF#32, false⟩,
    ⟨"CHECKSUM", 0x00000004#32, 0xFFFFFFFF#32, false⟩,
    ⟨"RECOVER", 0x00000005#32, 0xFFFFFFFF#32, false⟩,
    ⟨"ENCODE", 0x00000006#32, 0xFFFFFFFF#32, false⟩,
    ⟨"CLRSESS", 0x00000007#32, 0xFFFFFFFF#32, false⟩,
    ⟨"ACCUM", 0x00000008#32, 0xFFFFFFFF#32, false⟩,
    ⟨"FINALIZE", 0x00000009#32, 0xFFFFFFFF#32, false⟩ ]

/-- "A word c selects the row when (c AND mask) = match and the extra condition holds" (R69). -/
def selects (c : Word) (r : OpRow) : Bool :=
  decide (c &&& r.mask = r.matchBits) && (!r.slotBound || decide ((slotField c).toNat ≤ 23))

/-- The table's name of a command (R68). -/
def Instr.mnemonic : Instr → String
  | .lookup _ => "LOOKUP"
  | .wordat _ => "WORDAT"
  | .validate => "VALIDATE"
  | .checksum => "CHECKSUM"
  | .recover => "RECOVER"
  | .encode => "ENCODE"
  | .clrsess => "CLRSESS"
  | .accum => "ACCUM"
  | .finalize => "FINALIZE"

/-- The OP value of a command (R68). -/
def Instr.op : Instr → BitVec 8
  | .lookup _ => 0x01#8
  | .wordat _ => 0x02#8
  | .validate => 0x03#8
  | .checksum => 0x04#8
  | .recover => 0x05#8
  | .encode => 0x06#8
  | .clrsess => 0x07#8
  | .accum => 0x08#8
  | .finalize => 0x09#8

/-- The command word of a command: its fields laid out as R66 draws them, RSVB ‖ IMM11 ‖ RSVA ‖ SLOT ‖ OP (R74). -/
def encode : Instr → Word
  | .lookup slot => 0#5 ++ 0#11 ++ 0#3 ++ slot ++ 0x01#8
  | .wordat index => 0#5 ++ index ++ 0#3 ++ 0#5 ++ 0x02#8
  | .validate => 0x00000003#32
  | .checksum => 0x00000004#32
  | .recover => 0x00000005#32
  | .encode => 0x00000006#32
  | .clrsess => 0x00000007#32
  | .accum => 0x00000008#32
  | .finalize => 0x00000009#32

/-- The 32-bit command word whose low `nbits` bits are those of `w` and whose other bits are 0. A command is one value on
a 32-bit bus (R65), so there is no byte order to choose. -/
def commandWord (nbits w : Nat) : Word := BitVec.ofNat 32 (w % 2 ^ nbits)

/-- The command the decoder reads from a word numbered as spec/opcode_table.json numbers it; none where it refuses. -/
def decodeTableWord (nbits w : Nat) : Option Instr := (decode (commandWord nbits w)).toOption

end Sys2Proof
end

