-- ==== Sys2Proof/Machine/Bits.lean ====
section
/-! DEFINITION. Bit strings and byte strings: the conversions of spec/00_scope.md R15 to R17 and R19, and the byte views
of spec/20_memory.md R55, R56. -/

namespace Sys2Proof.Machine

/-- `bin_n(v)` (R16): the n-bit string of v, most significant bit first, zero-padded on the left. -/
def bin : Nat → Nat → Bits
  | 0, _ => []
  | n + 1, v => v.testBit n :: bin n v

/-- `val(s)` (R16): the sum over i < |s| of s<i> × 2^(|s| − 1 − i). -/
def val : Bits → Nat
  | [] => 0
  | b :: s => b.toNat * 2 ^ s.length + val s

/-- `slice(s, i, n)` (R15): the n bits at positions i to i + n − 1. -/
def slice (s : Bits) (i n : Nat) : Bits := (s.drop i).take n

/-- `zeros(n)` (R15). -/
def zeros (n : Nat) : Bits := List.replicate n false

/-- `a ⊕ b` for two bit strings of one length (R17). -/
def xorBits (a b : Bits) : Bits := List.zipWith xor a b

/-- `bin_32` of a register: position 0 is bit 31 (R19, R55). -/
def wordBits (w : Word) : Bits := bin 32 w.toNat

/-- The register that holds a bit string of 32 bits. -/
def bitsWord (s : Bits) : Word := BitVec.ofNat 32 (val s)

/-- Registers in order, read as one bit string (R19, R55): position 32k + j is bit 31 − j of register k. -/
def regBits (rs : List Word) : Bits := rs.flatMap wordBits

/-- `zext_32(val(s))` (R16). -/
def zextVal (s : Bits) : Word := BitVec.ofNat 32 (val s)

/-- The four bytes of a register, byte 0 its bits 31:24 (R56). -/
def wordBytes (w : Word) : List Byte :=
  [w.extractLsb' 24 8, w.extractLsb' 16 8, w.extractLsb' 8 8, w.extractLsb' 0 8]

/-- Byte `j` of a byte string, 0 where it has none. -/
def byteAt (bs : List Byte) (j : Nat) : Byte := bs.getD j 0#8

/-- The register that holds bytes 4k to 4k + 3 of a byte string, big-endian (R56). -/
def bytesWord (bs : List Byte) (k : Nat) : Word :=
  byteAt bs (4 * k) ++ byteAt bs (4 * k + 1) ++ byteAt bs (4 * k + 2) ++ byteAt bs (4 * k + 3)

/-- `bytes(e)` of spec/41_codec.md R87: byte j is val(slice(e, 8j, 8)); all |e|/8 bytes are kept, leading zero bytes
included (spec/90_conflicts.md C1). -/
def bitsBytes (e : Bits) : List Byte :=
  (List.range (e.length / 8)).map fun j => BitVec.ofNat 8 (val (slice e (8 * j) 8))

/-- The bit string of a byte string: bin_8 of each byte in order (spec/41_codec.md R91). -/
def bytesBits (bs : List Byte) : Bits := bs.flatMap fun b => bin 8 b.toNat

end Sys2Proof.Machine
end

