-- ==== Sys2Proof/Machine/Sizes.lean ====
section
/-! DEFINITION. The two mnemonic sizes and the quantities the source fixes for each (spec/00_scope.md R2, R12;
spec/42_pad_recoverer.md R94). -/

namespace Sys2Proof.Machine

/-- The two sizes of R2: 12 words carrying 128 entropy bits, 24 words carrying 256. -/
inductive Size where
  | words12
  | words24
deriving DecidableEq, Repr

/-- N, which is also NW(ELEN) of spec/10_state.md R38. -/
def Size.nWords : Size → Nat
  | .words12 => 12
  | .words24 => 24

/-- ENTW(N) (R12), which is also L(ELEN) of R38. -/
def Size.entW : Size → Nat
  | .words12 => 128
  | .words24 => 256

/-- CSW(N) = ENTW / 32 (R12). -/
def Size.csW (z : Size) : Nat := z.entW / 32

/-- ADDW(N), the source's bitsToAdd (R12, R94). -/
def Size.addW : Size → Nat
  | .words12 => 7
  | .words24 => 3

/-- FULLW(N) = ENTW + CSW (R12). -/
def Size.fullW (z : Size) : Nat := z.entW + z.csW

/-- L(ELEN) and NW(ELEN): ELEN = 0 selects 12 words, ELEN = 1 selects 24 (R38). -/
def Size.ofElen : Bool → Size
  | false => .words12
  | true => .words24

/-- ELEN of a size (R38). -/
def Size.elen : Size → Bool
  | .words12 => false
  | .words24 => true

/-- The SLEN value of a size: ELEN + 1, that is 1 for 128 bits and 2 for 256 (spec/10_state.md R39,
spec/43_xor_combiner.md R106). -/
def Size.slen : Size → BitVec 2
  | .words12 => 1#2
  | .words24 => 2#2

/-- The size of a word count, none for every count but 12 and 24 (R2, R95). -/
def Size.ofCount (n : Nat) : Option Size :=
  if n = 12 then some .words12 else if n = 24 then some .words24 else none

/-- MINPADS, the fewest pads that produce a result (R12). -/
abbrev MINPADS : Nat := 2

/-- NWORDLIST, the entries of the word list (R12). -/
abbrev NWORDLIST : Nat := 2048

/-- IDXW, the bits of one word index (R12). -/
abbrev IDXW : Nat := 11

/-- NSLOTS, the number of word-index slots (R13). -/
abbrev NSLOTS : Nat := 24

/-- WORD_BYTES, the bytes of the word buffer (R13). -/
abbrev WORD_BYTES : Nat := 16

end Sys2Proof.Machine
end

