-- ==== Sys2Proof/Machine/WordList.lean ====
section
/-! DEFINITION. The word list's integrity predicate, padding and lookup, for any word list (spec/40_wordlist.md R78 to
R80). -/

namespace Sys2Proof.Machine

/-- The word index of a natural number below 2048. -/
def idx (i : Nat) : Idx := BitVec.ofNat 11 i

/-- Condition (a) of R78 for one entry: 1 to 16 bytes, none of them 0x00. -/
def entryOk (w : List Byte) : Bool :=
  decide (1 ≤ w.length) && decide (w.length ≤ WORD_BYTES) && w.all fun b => b != 0#8

/-- The word indices 0 to 2047, in order. -/
def indices : List Nat := List.range' 0 NWORDLIST

/-- `wordlist_ok(W)` (R78): (a) every entry is well formed; (b) no two entries are equal. -/
@[irreducible] def wordlistOk (W : Idx → List Byte) : Bool :=
  (indices.all fun i => entryOk (W (idx i))) &&
  indices.all fun i => indices.all fun j => decide (i = j) || decide (W (idx i) ≠ W (idx j))

/-- `pad16(w)` (R79): w followed by 16 − |w| zero bytes. -/
def pad16 (w : List Byte) : List Byte := w ++ List.replicate (WORD_BYTES - w.length) 0#8

/-- `index_of(b)` (R80): the index i with pad16(W[i]) = b, none for NotFound. The comparison is of all 16 bytes. -/
def indexOf (W : Idx → List Byte) (b : List Byte) : Option Idx :=
  (indices.find? fun i => decide (pad16 (W (idx i)) = b)).map idx

end Sys2Proof.Machine
end

