-- ==== Sys2Proof/Machine/State.lean ====
section
/-! DEFINITION. The state of the block, its inputs, the reasons a step can stop, and the reset state
(spec/10_state.md, spec/70_reset_and_hazards.md R136). -/

namespace Sys2Proof.Machine

/-- What happens next at the block's ports. The block takes host accesses one at a time in the order they arrive
(spec/20_memory.md R59), and a completion may come after any number of them (R141): one list in `State` holds the order,
so a statement about every state is a statement about every order. -/
inductive Event where
  /-- A host read of `width` bits at byte offset `off` of the window; `MemRead(BASE + off, 4)` when `width` is 32 (R20). -/
  | read (width : Nat) (off : Offset)
  /-- A host write; `MemWrite(BASE + off, 4, value)` when `width` is 32 (R20). -/
  | write (width : Nat) (off : Offset) (value : Word)
  /-- The sequencer is scheduled: it completes the pending command, if there is one (R73, R141). -/
  | sequencer
  /-- The platform drives the reset input RST_N to `level` (R136). -/
  | rstN (level : Bool)
deriving DecidableEq, Repr

/-- One slot MN[i] (spec/10_state.md R43): V is bit 31, IDX is bits 10:0, the bits between read 0 and are not stored. -/
structure Slot where
  v : Bool
  idx : Idx
deriving DecidableEq, Repr

/-- A slot that reads 0x00000000: V = 0, IDX = 0. -/
def Slot.empty : Slot := { v := false, idx := 0#11 }

/-- The state of the block. Reserved bits read 0 and ignore writes (R51), so only the defined fields of a register are
held. ID is a constant (R31) and CMD stores nothing (R34). -/
structure State where
  /-- The model's own: what happens next at the ports, earliest first. -/
  inputs : List Event
  /-- The level of the reset input RST_N (R136). -/
  rstN : Bool
  /-- The model's own: the value the latest host read returned; none before the first. -/
  rdata : Option Word
  /-- The model's own: how many draws of R143 have been made. -/
  draws : Nat
  /-- CTRL.IE, bit 0 (R32). -/
  ie : Bool
  /-- STATUS.DONE, bit 1 (R33). -/
  done : Bool
  /-- STATUS.OVR, bit 2 (R33). -/
  ovr : Bool
  /-- STATUS.FATAL, bit 3 (R33). -/
  fatal : Bool
  /-- STATUS.ERR, bits 11:8 (R33). -/
  err : BitVec 4
  /-- RESULT (R35). -/
  result : Word
  /-- INVMASK[23:0] (R36). -/
  invmask : BitVec 24
  /-- MNLEN[7:0] (R37). -/
  mnlen : BitVec 8
  /-- ENTCFG.ELEN, bit 0 (R38). -/
  elen : Bool
  /-- SESSION.PADCNT, bits 7:0 (R39). -/
  padcnt : BitVec 8
  /-- SESSION.SLEN, bits 9:8 (R39). -/
  slen : BitVec 2
  /-- WBUF[0..3] (R40). -/
  wbuf : Vector Word 4
  /-- ENT[0..7] (R41). -/
  ent : Vector Word 8
  /-- ACC[0..7] (R42). -/
  acc : Vector Word 8
  /-- MN[0..23] (R43). -/
  mn : Vector Slot 24
  /-- PEND: the accepted command word that has not completed (R44). STATUS.BUSY is 1 exactly when it is not none. -/
  pend : Option Word
deriving DecidableEq, Repr

/-- The block has no fault: "the block does not stop: after any completion, OK or error, the block accepts the next
command" (spec/60_exceptions.md R116). An error is a completion code in STATUS.ERR, so nothing raises a fault and the
type has no constructor (safe: nothing is cut short). -/
inductive Fault where
deriving DecidableEq, Repr

/-- Why a step has no meaning. -/
inductive Refusal where
  /-- Raised by `exec` for a command with no meaning yet; no arm of this model raises it (safe). -/
  | notModelled (mnemonic : String)
  /-- Raised by a host access that is not 32 bits wide: "The model refuses it: it gives such an access no meaning and marks
  the run refused" (spec/20_memory.md R52). Safe: the run is no run of the block. -/
  | accessWidth (width : Nat)
  /-- Raised by a 32-bit host access at an offset that is not a multiple of 4 (R52). Safe, for the same reason. -/
  | misalignedOffset (off : Offset)
deriving DecidableEq, Repr

/-- The reset state, `reset_state()` of spec/70_reset_and_hazards.md R136: every register 0, PEND = none, FATAL the result
of the integrity check (R137), the reset input released. The fields of the model's own hold nothing (assumption log 2). -/
def State.reset : State where
  inputs := []
  rstN := true
  rdata := none
  draws := 0
  ie := false
  done := false
  ovr := false
  fatal := !wordlistOk Config.WORDLIST
  err := 0#4
  result := 0#32
  invmask := 0#24
  mnlen := 0#8
  elen := false
  padcnt := 0#8
  slen := 0#2
  wbuf := Vector.replicate 4 0#32
  ent := Vector.replicate 8 0#32
  acc := Vector.replicate 8 0#32
  mn := Vector.replicate 24 Slot.empty
  pend := none

end Sys2Proof.Machine
end

