-- ==== Sys2Proof/Machine/Flags.lean ====
section
/-! DEFINITION. The completion codes, the views of the control and status registers as bus words, the interrupt line and
the layouts of RESULT (spec/10_state.md R31 to R43, spec/60_exceptions.md R117, R122, R124). -/

namespace Sys2Proof.Machine

/-- The completion codes of R117; 9 to 15 are reserved and have no name here. -/
inductive Code where
  | ok
  | invalidWord
  | invalidWordCount
  | invalidWords
  | inconsistentPadLength
  | insufficientPads
  | checksumRecoveryFailed
  | wordlistIntegrity
  | illegalCommand
deriving DecidableEq, Repr

/-- The number of a completion code, as STATUS.ERR holds it (R117). -/
def Code.bits : Code → BitVec 4
  | .ok => 0#4
  | .invalidWord => 1#4
  | .invalidWordCount => 2#4
  | .invalidWords => 3#4
  | .inconsistentPadLength => 4#4
  | .insufficientPads => 5#4
  | .checksumRecoveryFailed => 6#4
  | .wordlistIntegrity => 7#4
  | .illegalCommand => 8#4

/-- STATUS.BUSY: 1 exactly when PEND ≠ none (R44). -/
def State.busy (s : State) : Bool := s.pend.isSome

/-- The interrupt output: IRQ = CTRL.IE AND STATUS.DONE at every moment (R124), and 0 while RST_N = 0 (R136). -/
def State.irq (s : State) : Bool := s.rstN && (s.ie && s.done)

/-- ID, the ASCII bytes "B39X" read big-endian (R31). -/
def idWord : Word := 0x42333958#32

/-- CTRL as read: IE in bit 0; SRST and the reserved bits read 0 (R32). -/
def State.ctrlWord (s : State) : Word := 0#31 ++ BitVec.ofBool s.ie

/-- STATUS as read: BUSY, DONE, OVR and FATAL in bits 0 to 3, ERR in bits 11:8, 0 elsewhere (R33). -/
def State.statusWord (s : State) : Word :=
  0#20 ++ s.err ++ 0#4 ++ BitVec.ofBool s.fatal ++ BitVec.ofBool s.ovr ++ BitVec.ofBool s.done ++ BitVec.ofBool s.busy

/-- INVMASK as read (R36). -/
def State.invmaskWord (s : State) : Word := 0#8 ++ s.invmask

/-- MNLEN as read (R37). -/
def State.mnlenWord (s : State) : Word := 0#24 ++ s.mnlen

/-- ENTCFG as read (R38). -/
def State.entcfgWord (s : State) : Word := 0#31 ++ BitVec.ofBool s.elen

/-- SESSION as read: SLEN in bits 9:8, PADCNT in bits 7:0 (R39). -/
def State.sessionWord (s : State) : Word := 0#22 ++ s.slen ++ s.padcnt

/-- A slot as read: V in bit 31, IDX in bits 10:0, 0 between (R43). -/
def Slot.word (x : Slot) : Word := BitVec.ofBool x.v ++ 0#20 ++ x.idx

/-- The slot a host write of `v` leaves: V from bit 31, IDX from bits 10:0 (R43). -/
def Slot.ofWord (v : Word) : Slot := { v := v.getLsbD 31, idx := v.extractLsb' 0 11 }

/-- The slot 0x80000000 + i. -/
def Slot.valid (i : Idx) : Slot := { v := true, idx := i }

/-- A write to STATUS: a written 1 in bit 1 or bit 2 clears DONE or OVR; the other bits are ignored (R33). -/
def State.statusWrite (s : State) (v : Word) : State :=
  { s with done := s.done && !v.getLsbD 1, ovr := s.ovr && !v.getLsbD 2 }

/-- RESULT of LOOKUP's OK: 0x80000000 + r, bit 31 FOUND and bits 10:0 the index (R82, R122). -/
def foundResult (r : Idx) : Word := (Slot.valid r).word

/-- RESULT of RECOVER's OK: val(cs) × 256 + combo, bits 15:8 the checksum and bits 7:0 the suffix (R100, R122). -/
def recoverResult (cs : Bits) (combo : Nat) : Word := BitVec.ofNat 32 (val cs * 256 + combo)

/-- The saturating increment of PADCNT: min(PADCNT + 1, 255) (R106). -/
def padcntNext (p : BitVec 8) : BitVec 8 := BitVec.ofNat 8 (min (p.toNat + 1) 255)

end Sys2Proof.Machine
end

