-- ==== Sys2Proof/Machine/Sha256.lean ====
section
/-! DEFINITION. SHA-256 of a message of at most 55 bytes and the checksum function (spec/41_codec.md R88 to R91). -/

namespace Sys2Proof.Machine

/-- ROTR(x, r), 0 < r < 32 (R88). -/
def rotr (x : Word) (r : Nat) : Word := (x >>> r) ||| (x <<< (32 - r))

/-- Ch(x, y, z) (R88). -/
def shaCh (x y z : Word) : Word := (x &&& y) ^^^ (~~~x &&& z)

/-- Maj(x, y, z) (R88). -/
def shaMaj (x y z : Word) : Word := (x &&& y) ^^^ (x &&& z) ^^^ (y &&& z)

/-- Two rotations of x and a third term, XORed: the common form of S0, S1, s0 and s1 (R88). -/
def rotXor (r q : Nat) (x third : Word) : Word := rotr x r ^^^ (rotr x q ^^^ third)

/-- S0(x) (R88). -/
def shaS0 (x : Word) : Word := rotXor 2 13 x (rotr x 22)

/-- S1(x) (R88). -/
def shaS1 (x : Word) : Word := rotXor 6 11 x (rotr x 25)

/-- s0(x) (R88). -/
def shas0 (x : Word) : Word := rotXor 7 18 x (x >>> 3)

/-- s1(x) (R88). -/
def shas1 (x : Word) : Word := rotXor 17 19 x (x >>> 10)

/-- One line of the constants of R89 or R90: eight words written side by side as one 256-bit number. -/
abbrev ShaLine := BitVec 256

/-- Word i of a line, 0 to 7, counted from the left as R89 and R90 print them. -/
def ShaLine.word (l : ShaLine) (i : Nat) : Word := l.extractLsb' (32 * (7 - i)) 32

/-- The eight lines of R89, K[0..7] to K[56..63]. -/
def shaKLines : List ShaLine :=
  [ 0x428a2f98_71374491_b5c0fbcf_e9b5dba5_3956c25b_59f111f1_923f82a4_ab1c5ed5,
    0xd807aa98_12835b01_243185be_550c7dc3_72be5d74_80deb1fe_9bdc06a7_c19bf174,
    0xe49b69c1_efbe4786_0fc19dc6_240ca1cc_2de92c6f_4a7484aa_5cb0a9dc_76f988da,
    0x983e5152_a831c66d_b00327c8_bf597fc7_c6e00bf3_d5a79147_06ca6351_14292967,
    0x27b70a85_2e1b2138_4d2c6dfc_53380d13_650a7354_766a0abb_81c2c92e_92722c85,
    0xa2bfe8a1_a81a664b_c24b8b70_c76c51a3_d192e819_d6990624_f40e3585_106aa070,
    0x19a4c116_1e376c08_2748774c_34b0bcb5_391c0cb3_4ed8aa4a_5b9cca4f_682e6ff3,
    0x748f82ee_78a5636f_84c87814_8cc70208_90befffa_a4506ceb_bef9a3f7_c67178f2 ]

/-- The round constants K[0..63]: K[t] is word t mod 8 of line t div 8 (R89). -/
def shaK : List Word := shaKLines.flatMap fun l => (List.range 8).map l.word

/-- The eight working variables a to h of R88. They exist only during a command and are not state (spec/10_state.md
R45). -/
structure ShaVars where
  a : Word
  b : Word
  c : Word
  d : Word
  e : Word
  f : Word
  g : Word
  h : Word
deriving DecidableEq, Repr

/-- The variables in the order of R88. -/
def ShaVars.words (v : ShaVars) : List Word := [v.a, v.b, v.c, v.d, v.e, v.f, v.g, v.h]

/-- The variables set from a line: (a, …, h) := (H[0], …, H[7]) (R88). -/
def ShaVars.ofLine (l : ShaLine) : ShaVars :=
  { a := l.word 0, b := l.word 1, c := l.word 2, d := l.word 3,
    e := l.word 4, f := l.word 5, g := l.word 6, h := l.word 7 }

/-- The initial hash value H0[0..7] (R90). -/
def shaH0 : ShaVars := .ofLine 0x6a09e667_bb67ae85_3c6ef372_a54ff53a_510e527f_9b05688c_1f83d9ab_5be0cd19

/-- One round of R88, with the pair (K[t], W[t]): every variable moves one place on, and T1 enters at e and with T2 at
a. -/
def shaRound (v : ShaVars) (kw : Word × Word) : ShaVars :=
  let t1 := v.h + shaS1 v.e + shaCh v.e v.f v.g + kw.1 + kw.2
  let t2 := shaS0 v.a + shaMaj v.a v.b v.c
  { a := t1 + t2, b := v.a, c := v.b, d := v.c, e := v.d + t1, f := v.e, g := v.f, h := v.g }

/-- The 64-byte block of R88: m ‖ 0x80 ‖ (55 − n) zero bytes ‖ the bit length in 8 bytes, most significant first. -/
def shaBlock (m : List Byte) : List Byte :=
  m ++ [0x80#8] ++ List.replicate (55 - m.length) 0#8 ++
    (List.range 8).map fun i => BitVec.ofNat 8 (8 * m.length / 256 ^ (7 - i))

/-- `n` further words of the message schedule (R88), put before the words so far, which stand latest first: the heads of
the list are W[t−1], W[t−2], …, so W[t−2], W[t−7], W[t−15] and W[t−16] are its elements 1, 6, 14 and 15. -/
def shaExtend : Nat → List Word → List Word
  | 0, ws => ws
  | n + 1, ws =>
    shaExtend n ((shas1 (ws.getD 1 0) + ws.getD 6 0 + shas0 (ws.getD 14 0) + ws.getD 15 0) :: ws)

/-- The message schedule W[0..63] of one block (R88). -/
def shaSchedule (blk : List Byte) : List Word :=
  (shaExtend 48 ((List.range 16).map fun t => bytesWord blk t).reverse).reverse

/-- SHA256(m) (R88): the 32 bytes H[0] to H[7], each most significant byte first. Defined by R88 for at most 55 bytes;
the block hashes 16 and 32. -/
def sha256 (m : List Byte) : List Byte :=
  let v := (shaK.zip (shaSchedule (shaBlock m))).foldl shaRound shaH0
  (List.zipWith (· + ·) shaH0.words v.words).flatMap wordBytes

/-- CHK(e, c) (R91): the first c bits of the hash of bytes(e). -/
def chk (e : Bits) (c : Nat) : Bits := slice (bytesBits (sha256 (bitsBytes e))) 0 c

end Sys2Proof.Machine
end

