-- ==== Sys2Proof/Machine/Operands.lean ====
section
/-! DEFINITION. The operand and result registers of the commands, as the strings the rules read and write
(spec/00_scope.md R19, spec/10_state.md R40 to R43, spec/41_codec.md R85, R86). -/

namespace Sys2Proof.Machine

/-- Slot MN[i]; the empty slot for an i that names none. -/
def State.slot (s : State) (i : Nat) : Slot := s.mn.toList.getD i Slot.empty

/-- ENT[k]. -/
def State.entWord (s : State) (k : Nat) : Word := s.ent.toList.getD k 0#32

/-- ACC[k]. -/
def State.accWord (s : State) (k : Nat) : Word := s.acc.toList.getD k 0#32

/-- The size ENTCFG.ELEN selects (R38). -/
def State.size (s : State) : Size := Size.ofElen s.elen

/-- The first |L|/32 registers of a file as one bit string of length L (R19). -/
def fileBits (rs : Vector Word 8) (z : Size) : Bits := regBits (rs.toList.take (z.entW / 32))

/-- `entbits(L)` (R19, R41). -/
def State.entbits (s : State) (z : Size) : Bits := fileBits s.ent z

/-- `accbits(L)` (R19, R42). -/
def State.accbits (s : State) (z : Size) : Bits := fileBits s.acc z

/-- The register file that holds a bit string of 128 or 256 bits: register k holds val(slice(e, 32k, 32)), and the
registers past the string hold 0 (R19). -/
def bitsFile (e : Bits) : Vector Word 8 :=
  Vector.ofFn fun k => if 32 * k.val < e.length then bitsWord (slice e (32 * k.val) 32) else 0#32

/-- `put_ent(e)` (R19). -/
def State.putEnt (s : State) (e : Bits) : State := { s with ent := bitsFile e }

/-- `pack(k)` (R85): bin_11 of the IDX fields of slots 0 to k − 1; the V bits are not read. -/
def State.pack (s : State) (k : Nat) : Bits := (List.range k).flatMap fun i => bin IDXW (s.slot i).idx.toNat

/-- `split(f)` (R86): group j is val(slice(f, 11j, 11)). -/
def split (f : Bits) : List Idx := (List.range (f.length / IDXW)).map fun j => idx (val (slice f (IDXW * j) IDXW))

/-- The 16-byte buffer of WBUF, big-endian per register (R40, R56). -/
def State.wbufBytes (s : State) : List Byte := s.wbuf.toList.flatMap wordBytes

/-- WBUF[k] <- val(bytes 4k .. 4k+3 of w) for k = 0 to 3 (spec/40_wordlist.md R83). -/
def State.putWbuf (s : State) (w : List Byte) : State := { s with wbuf := Vector.ofFn fun k => bytesWord w k.val }

/-- MN[i] <- x, for a slot number the block has. -/
def State.putSlot (s : State) (i : Nat) (x : Slot) : State := { s with mn := s.mn.setIfInBounds i x }

/-- The slots an emitted mnemonic leaves: V = 1 and the given index below N, the empty slot from N on (R110). -/
def mnemonicSlots (n : Nat) (g : List Idx) : Vector Slot 24 :=
  Vector.ofFn fun j => if j.val < n then { v := true, idx := g.getD j.val 0#11 } else Slot.empty

end Sys2Proof.Machine
end

