-- ==== Sys2Proof/Machine/Ops.lean ====
section
/-! DEFINITION. The shared operations of the block: acceptance, completion with a code (the block's one way of taking an
error), the commit, the priority of the errors, the reset (spec/30_encoding.md R72, R73; spec/60_exceptions.md R116 to
R121; spec/70_reset_and_hazards.md R136 to R138). -/

namespace Sys2Proof.Machine

/-- What a command comes to (R120): a completion code, and the state after the register writes its rule lists before its
`complete` or `raise`. The writes are computed from the state before the command (R18). -/
structure Completion where
  code : Code
  writes : State

/-- `complete(OK)` after the writes that give `w` (R21). -/
def complete (w : State) : Completion := { code := .ok, writes := w }

/-- `raise E` after the writes that give `w` (R21). The block has no trap entry: an error saves no state, changes no mode
and transfers no control (R125); it is a completion with another code. -/
def raise (e : Code) (w : State) : Completion := { code := e, writes := w }

/-- `commit(outcome)` (R120): the writes, STATUS.ERR, STATUS.DONE and PEND, in one step. -/
def commit (o : Completion) : State := { o.writes with err := o.code.bits, done := true, pend := none }

/-- The completion step of a command in the order of R73 and R119: WORDLIST_INTEGRITY with no other effect when FATAL = 1,
else the outcome of the command. -/
def finish (s : State) (o : Completion) : State :=
  commit (if s.fatal then raise .wordlistIntegrity s else o)

/-- The completion step as an outcome of the machine: no command stops it (R116). -/
def runCommand (s : State) (o : Completion) : Host.Outcome State Fault Refusal := .next (finish s o)

/-- The completion of an illegal command: ILLEGAL_COMMAND and no other effect (R71, R119). -/
def illegalCommand (s : State) : Host.Outcome State Fault Refusal := runCommand s (raise .illegalCommand s)

/-- `accept(c)` (R72): PEND <- c, STATUS.DONE <- 0, STATUS.ERR <- 0; no other state changes. -/
def accept (s : State) (c : Word) : State := { s with pend := some c, done := false, err := 0#4 }

/-- `reset_state()` (R136) at a state of the run: every register, PEND and FATAL as after reset. The reset input keeps its
level, and the inputs still to come, the value last read and the count of draws are the model's own and stay. -/
def resetState (s : State) : State :=
  { State.reset with inputs := s.inputs, rstN := s.rstN, rdata := s.rdata, draws := s.draws }

/-- A write to CTRL (R32): with bit 1 = 1 the soft reset, whatever bit 0 is (R138); else IE <- bit 0. -/
def ctrlWrite (s : State) (v : Word) : State :=
  if v.getLsbD 1 then resetState s else { s with ie := v.getLsbD 0 }

/-- The reset input driven to a level (R136). A command pending when it falls is abandoned, and when it rises the
block is in the reset state. That the block takes the reset state at the fall and holds it, and that a level 1 it already
has is no edge, are the model's choice (assumption log 7). -/
def driveRstN (s : State) (level : Bool) : State :=
  if s.rstN && level then s else { resetState s with rstN := level }

end Sys2Proof.Machine
end

