-- ==== Sys2Proof/Machine/Bus.lean ====
section
/-! DEFINITION. The register window: the register map, host reads and writes, and the accesses the model refuses
(spec/10_state.md R30; spec/20_memory.md R48 to R54; spec/70_reset_and_hazards.md R142, R143). -/

namespace Sys2Proof.Machine

/-- The registers of the map of R30. -/
inductive Reg where
  | id
  | ctrl
  | status
  | cmd
  | result
  | invmask
  | mnlen
  | entcfg
  | session
  | wbuf (k : Fin 4)
  | ent (k : Fin 8)
  | acc (k : Fin 8)
  | mn (i : Fin 24)
deriving DecidableEq, Repr

/-- The byte offset of a register (R30, R75). -/
def Reg.offset : Reg → Offset
  | .id => 0x000#12
  | .ctrl => 0x004#12
  | .status => 0x008#12
  | .cmd => 0x00C#12
  | .result => 0x010#12
  | .invmask => 0x014#12
  | .mnlen => 0x018#12
  | .entcfg => 0x01C#12
  | .session => 0x020#12
  | .wbuf k => BitVec.ofNat 12 (0x030 + 4 * k.val)
  | .ent k => BitVec.ofNat 12 (0x040 + 4 * k.val)
  | .acc k => BitVec.ofNat 12 (0x060 + 4 * k.val)
  | .mn i => BitVec.ofNat 12 (0x080 + 4 * i.val)

/-- The register at the 32-bit word `w` of the window, that is at byte offset 4w; none where the map of R30 has none. -/
def regAtWord (w : Nat) : Option Reg :=
  if w < 9 then
    [Reg.id, .ctrl, .status, .cmd, .result, .invmask, .mnlen, .entcfg, .session][w]?
  else if h : 12 ≤ w ∧ w < 16 then some (.wbuf ⟨w - 12, by omega⟩)
  else if h : 16 ≤ w ∧ w < 24 then some (.ent ⟨w - 16, by omega⟩)
  else if h : 24 ≤ w ∧ w < 32 then some (.acc ⟨w - 24, by omega⟩)
  else if h : 32 ≤ w ∧ w < 56 then some (.mn ⟨w - 32, by omega⟩)
  else none

/-- The register an aligned offset reaches; none for an unmapped offset (R30, R51). -/
def regAt (off : Offset) : Option Reg := regAtWord (off.toNat / 4)

/-- Registers a host read of which draws while a command is pending (R143): "busy-locked" for reads in R30. -/
def Reg.readLocked : Reg → Bool
  | .id | .ctrl | .status | .cmd => false
  | .result | .invmask | .mnlen | .entcfg | .session | .wbuf _ | .ent _ | .acc _ | .mn _ => true

/-- The exact value of a register on the bus (R31 to R43). CMD reads 0 at every time (R34). -/
def State.regWord (s : State) : Reg → Word
  | .id => idWord
  | .ctrl => s.ctrlWord
  | .status => s.statusWord
  | .cmd => 0#32
  | .result => s.result
  | .invmask => s.invmaskWord
  | .mnlen => s.mnlenWord
  | .entcfg => s.entcfgWord
  | .session => s.sessionWord
  | .wbuf k => s.wbuf[k]
  | .ent k => s.ent[k]
  | .acc k => s.acc[k]
  | .mn i => s.mn[i].word

/-- Whether a read at `off` returns a draw: a busy-locked register while a command is pending (R143). -/
def State.readDraws (s : State) (off : Offset) : Bool :=
  match regAt off with
  | none => false
  | some r => s.busy && r.readLocked

/-- The value a host read at `off` returns: a draw (R143), the exact value of the register, or 0 at an unmapped offset
(R51). -/
def State.readValue (s : State) (off : Offset) : Word :=
  match regAt off with
  | none => 0#32
  | some r => if s.busy && r.readLocked then Config.busyRead s.draws else s.regWord r

/-- A host read: the value goes to the host, and nothing of the block changes (R54). -/
def hostRead (s : State) (off : Offset) : State :=
  { s with rdata := some (s.readValue off), draws := if s.readDraws off then s.draws + 1 else s.draws }

/-- A write that stores into a register the host can write, keeping only its defined bits (R37, R38, R40, R41, R43). -/
def storeReg (s : State) (r : Reg) (v : Word) : State :=
  match r with
  | .mnlen => { s with mnlen := v.extractLsb' 0 8 }
  | .entcfg => { s with elen := v.getLsbD 0 }
  | .wbuf k => { s with wbuf := s.wbuf.set k v }
  | .ent k => { s with ent := s.ent.set k v }
  | .mn i => { s with mn := s.mn.set i (Slot.ofWord v) }
  | .id | .ctrl | .status | .cmd | .result | .invmask | .session | .acc _ => s

/-- `host_write(off, v)` of R142. -/
def hostWrite (s : State) (off : Offset) (v : Word) : State :=
  match regAt off with
  | none => s
  | some r =>
    match r with
    | .ctrl => ctrlWrite s v
    | .status => s.statusWrite v
    | .id | .result | .invmask | .session | .acc _ => s
    | .cmd => if s.busy then { s with ovr := true } else accept s v
    | .mnlen | .entcfg | .wbuf _ | .ent _ | .mn _ => if s.busy then { s with ovr := true } else storeReg s r v

/-- The accesses outside the block's interface: not 32 bits wide, or at an offset that is no multiple of 4 (R52). -/
def accessRefusal (width : Nat) (off : Offset) : Option Refusal :=
  if width ≠ 32 then some (.accessWidth width)
  else if off.toNat % 4 ≠ 0 then some (.misalignedOffset off)
  else none

/-- A host access whose effect is `t`: refused by name outside the interface (R52); not taken while RST_N = 0 (R136). -/
def hostAccess (s : State) (width : Nat) (off : Offset) (t : State) : Host.Outcome State Fault Refusal :=
  match accessRefusal width off with
  | some r => .refused r
  | none => .next (if s.rstN then t else s)

/-- The host address of a register offset (R48). -/
def hostAddress (off : Offset) : Nat := Config.BASE + off.toNat

/-- The offset a host address reaches: its low 12 bits, when it lies in the window; the block does not see any other
address (R48). -/
def windowOffset (addr : Nat) : Option Offset :=
  if Config.BASE ≤ addr ∧ addr < Config.BASE + 4096 then some (BitVec.ofNat 12 addr) else none

end Sys2Proof.Machine
end

