-- ==== Sys2Proof/Machine/ChecksumCommand.lean ====
section
/-! DEFINITION. CHECKSUM, the checksum of the entropy in ENT (spec/41_codec.md R93). -/

namespace Sys2Proof.Machine

/-- The checksum of the entropy in ENT, CHK(entbits(L), L / 32) (R93). -/
def State.entChecksum (s : State) : Bits := chk (s.entbits s.size) s.size.csW

/-- `exec_CHECKSUM()` of R93. -/
def checksumOutcome (s : State) : Completion := complete { s with result := zextVal s.entChecksum }

/-- CHECKSUM (R93). -/
def execChecksum (s : State) : Host.Outcome State Fault Refusal := runCommand s (checksumOutcome s)

end Sys2Proof.Machine
end

