-- ==== Sys2Proof/Machine/MnemonicCommands.lean ====
section
/-! DEFINITION. ENCODE and FINALIZE: mnemonic encoding and seed reconstruction (spec/44_seed_reconstructor.md R110 to
R113). -/

namespace Sys2Proof.Machine

/-- `emit(e)` (R110): the mnemonic of an entropy of size `z` into the slots, its word count into MNLEN and its checksum
into RESULT; the slots from N on are cleared. -/
def emit (s : State) (z : Size) (e : Bits) : State :=
  let cs := chk e z.csW
  { s with mn := mnemonicSlots z.nWords (split (e ++ cs)), mnlen := BitVec.ofNat 8 z.nWords, result := zextVal cs }

/-- `exec_ENCODE()` of R111. -/
def encodeOutcome (s : State) : Completion := complete (emit s s.size (s.entbits s.size))

/-- ELEN as FINALIZE writes it: SLEN − 1, of which the one-bit field takes the low bit (R112, R14). -/
def State.sessionElen (s : State) : Bool := (s.slen - 1#2).getLsbD 0

/-- The size of the session's entropy, 128 × SLEN bits for SLEN = 1 or 2 (R112). SLEN is neither 0 nor 3 in a session
with two pads (R39); assumption log 6 says what the model does in a state no run reaches. -/
def State.sessionSize (s : State) : Size := Size.ofElen s.sessionElen

/-- `exec_FINALIZE()` of R112. -/
def finalizeOutcome (s : State) : Completion :=
  if s.padcnt.toNat < MINPADS then
    raise .insufficientPads { s with result := 0#32 }
  else
    let e := s.accbits s.sessionSize
    complete (emit { s.putEnt e with elen := s.sessionElen } s.sessionSize e)

/-- ENCODE (R111). -/
def execEncode (s : State) : Host.Outcome State Fault Refusal := runCommand s (encodeOutcome s)

/-- FINALIZE (R112). -/
def execFinalize (s : State) : Host.Outcome State Fault Refusal := runCommand s (finalizeOutcome s)

end Sys2Proof.Machine
end

