-- ==== Sys2Proof/Machine/PadCommands.lean ====
section
/-! DEFINITION. VALIDATE and RECOVER: pad validation and last-word recovery (spec/42_pad_recoverer.md R94 to R101). -/

namespace Sys2Proof.Machine

/-- The results of `validate()` (R95): `Ok` with the size the count stands for, InvalidWordCount, InvalidWords(m). -/
inductive Validity where
  | valid (z : Size)
  | invalidWordCount
  | invalidWords (mask : BitVec 24)
deriving DecidableEq, Repr

/-- The mask of the slots below n with V = 0 (R95). -/
def State.invalidSlots (s : State) (n : Nat) : BitVec 24 :=
  (List.range n).foldl (fun m i => if (s.slot i).v then m else m ||| (1#24 <<< i)) 0#24

/-- `validate()` (R95): the count first, then the V bits of the slots below it. -/
def validate (s : State) : Validity :=
  match Size.ofCount s.mnlen.toNat with
  | none => .invalidWordCount
  | some z => if s.invalidSlots z.nWords = 0#24 then .valid z else .invalidWords (s.invalidSlots z.nWords)

/-- `exec_VALIDATE()` of R96. -/
def validateOutcome (s : State) : Completion :=
  match validate s with
  | .invalidWordCount => raise .invalidWordCount { s with result := 0#32, invmask := 0#24 }
  | .invalidWords m => raise .invalidWords { s with result := 0#32, invmask := m }
  | .valid _ => complete { s with result := 0#32, invmask := 0#24 }

/-- `Found(combo, cs, cand)` of R97. -/
structure Found where
  combo : Nat
  cs : Bits
  cand : Bits
deriving DecidableEq, Repr

/-- One candidate of the search (R97): `combo` with its checksum and candidate entropy, when the 11 bits bin_B(combo) ‖ cs
are those of the last word's index. -/
def tryCombo (z : Size) (pre : Bits) (last : Idx) (combo : Nat) : Option Found :=
  let cand := pre ++ bin z.addW combo
  let cs := chk cand z.csW
  if bin z.addW combo ++ cs = bin IDXW last.toNat then some { combo := combo, cs := cs, cand := cand } else none

/-- `search(N)` (R97): the first match of the 2^B candidates in ascending numeric order, none for NoMatch. -/
def search (s : State) (z : Size) : Option Found :=
  (List.range (2 ^ z.addW)).findSome? fun combo =>
    tryCombo z (s.pack (z.nWords - 1)) (s.slot (z.nWords - 1)).idx combo

/-- `search_direct(N)` (R99), the direct form the source allows. The meaning of RECOVER is the search; that the two agree
is a statement of its own. -/
def searchDirect (s : State) (z : Size) : Option Found :=
  let full := s.pack z.nWords
  let cand := slice full 0 z.entW
  if chk cand z.csW = slice full z.entW z.csW then
    some { combo := val (slice full (z.entW - z.addW) z.addW), cs := chk cand z.csW, cand := cand }
  else none

/-- `exec_RECOVER()` of R100. -/
def recoverOutcome (s : State) : Completion :=
  match validate s with
  | .invalidWordCount => raise .invalidWordCount { s with result := 0#32, invmask := 0#24 }
  | .invalidWords m => raise .invalidWords { s with result := 0#32, invmask := m }
  | .valid z =>
    match search s z with
    | none => raise .checksumRecoveryFailed { s with result := 0#32, invmask := 0#24 }
    | some f =>
      complete { s.putEnt f.cand with
        elen := z.elen, result := recoverResult f.cs f.combo, invmask := 0#24 }

/-- VALIDATE (R96). -/
def execValidate (s : State) : Host.Outcome State Fault Refusal := runCommand s (validateOutcome s)

/-- RECOVER (R100). -/
def execRecover (s : State) : Host.Outcome State Fault Refusal := runCommand s (recoverOutcome s)

end Sys2Proof.Machine
end

