-- ==== Sys2Proof/Machine/SessionCommands.lean ====
section
/-! DEFINITION. CLRSESS and ACCUM: the XOR combiner and its session (spec/43_xor_combiner.md R103 to R109). -/

namespace Sys2Proof.Machine

/-- `exec_CLRSESS()` of R105. -/
def clrsessOutcome (s : State) : Completion :=
  complete { s with acc := Vector.replicate 8 0#32, padcnt := 0#8, slen := 0#2, result := 0#32 }

/-- ACC[k] <- ACC[k] ⊕ ENT[k] for k < L/32; the other registers stay (R106). -/
def State.xorAcc (s : State) (z : Size) : Vector Word 8 :=
  Vector.ofFn fun k => if k.val < z.entW / 32 then s.acc[k] ^^^ s.ent[k] else s.acc[k]

/-- `exec_ACCUM()` of R106. -/
def accumOutcome (s : State) : Completion :=
  if s.slen ≠ 0#2 ∧ s.slen ≠ s.size.slen then
    raise .inconsistentPadLength { s with result := 0#32 }
  else
    complete { s with
      acc := s.xorAcc s.size, slen := s.size.slen, padcnt := padcntNext s.padcnt,
      result := (padcntNext s.padcnt).setWidth 32 }

/-- CLRSESS (R105). -/
def execClrsess (s : State) : Host.Outcome State Fault Refusal := runCommand s (clrsessOutcome s)

/-- ACCUM (R106). -/
def execAccum (s : State) : Host.Outcome State Fault Refusal := runCommand s (accumOutcome s)

end Sys2Proof.Machine
end

