-- ==== Sys2Proof/Machine/WordCommands.lean ====
section
/-! DEFINITION. LOOKUP and WORDAT, the word-index encoder and decoder (spec/40_wordlist.md R82, R83). -/

namespace Sys2Proof.Machine

/-- `exec_LOOKUP(slot)` of R82 with the word list as an argument. -/
def lookupOutcome (W : Idx → List Byte) (slot : Nat) (s : State) : Completion :=
  match indexOf W s.wbufBytes with
  | none => raise .invalidWord { s.putSlot slot Slot.empty with result := 0#32 }
  | some r => complete { s.putSlot slot (Slot.valid r) with result := foundResult r }

/-- `exec_WORDAT(i)` of R83 with the word list as an argument. -/
def wordatOutcome (W : Idx → List Byte) (i : Idx) (s : State) : Completion :=
  complete { s.putWbuf (pad16 (W i)) with result := BitVec.ofNat 32 (W i).length }

/-- LOOKUP s (R82). A SLOT above 23 makes the command illegal (R70). -/
def execLookup (slot : BitVec 5) (s : State) : Host.Outcome State Fault Refusal :=
  if slot.toNat ≤ 23 then runCommand s (lookupOutcome Config.WORDLIST slot.toNat s) else illegalCommand s

/-- WORDAT i (R83). -/
def execWordat (index : Idx) (s : State) : Host.Outcome State Fault Refusal :=
  runCommand s (wordatOutcome Config.WORDLIST index s)

end Sys2Proof.Machine
end

