-- ==== Sys2Proof/Machine/Dispatch.lean ====
section
/-! DEFINITION. The dispatch of the completion step (spec/30_encoding.md R73): one arm per command. -/

namespace Sys2Proof.Machine

def exec (i : Instr) (s : State) : Host.Outcome State Fault Refusal :=
  match i with
  | .lookup slot => Sys2Proof.Machine.execLookup slot s
  | .wordat index => Sys2Proof.Machine.execWordat index s
  | .validate => Sys2Proof.Machine.execValidate s
  | .checksum => Sys2Proof.Machine.execChecksum s
  | .recover => Sys2Proof.Machine.execRecover s
  | .encode => Sys2Proof.Machine.execEncode s
  | .clrsess => Sys2Proof.Machine.execClrsess s
  | .accum => Sys2Proof.Machine.execAccum s
  | .finalize => Sys2Proof.Machine.execFinalize s

end Sys2Proof.Machine
end

