-- ==== Sys2Proof/Machine/Sequencer.lean ====
section
/-! DEFINITION. The sequencer's completion step and the effect of each input (spec/30_encoding.md R73;
spec/70_reset_and_hazards.md R136, R141). -/

namespace Sys2Proof.Machine

/-- `complete_step()` (R73): the pending command word is decoded and runs, or completes as illegal; with no command
pending the sequencer is idle (R135). -/
def sequencerTurn (s : State) : Host.Outcome State Fault Refusal :=
  match s.pend with
  | none => .next s
  | some c =>
    match decode c with
    | .ok i => exec i s
    | .error _ => illegalCommand s

/-- One input taken. -/
def takeEvent (e : Event) (s : State) : Host.Outcome State Fault Refusal :=
  match e with
  | .read width off => hostAccess s width off (hostRead s off)
  | .write width off value => hostAccess s width off (hostWrite s off value)
  | .sequencer => sequencerTurn s
  | .rstN level => .next (driveRstN s level)

/-- The inputs with the sequencer scheduled first. With no input waiting its turn comes of itself. -/
def sequencerFirst : List Event → List Event
  | [] => []
  | e :: rest => .sequencer :: e :: rest

/-- The state in which the command word `c` is pending and the very next step completes it. -/
def State.withPending (s : State) (c : Word) : State :=
  { s with pend := some c, inputs := sequencerFirst s.inputs }

/-- The state from which the sequencer's turn runs: the inputs less a `sequencer` at their head. -/
def State.afterTurn (s : State) : State := { s with inputs := s.inputs.tail }

end Sys2Proof.Machine
end

