-- ==== Sys2Proof/Machine/Step.lean ====
section
/-! DEFINITION. One step of the block: the next input at its ports, or, when none waits, the sequencer's turn
(spec/20_memory.md R59; spec/70_reset_and_hazards.md R141, R148). -/

namespace Sys2Proof.Machine

/-- One step. When no input waits the sequencer takes its turn, so an accepted command completes (R141); with none pending
the block idles and loses no state (R135). -/
def step (s : State) : Host.Outcome State Fault Refusal :=
  match s.inputs with
  | [] => sequencerTurn s
  | e :: rest => takeEvent e { s with inputs := rest }

/-- The block fetches nothing (R28): a command word is where the sequencer reads its next command when it is in PEND and
the sequencer's turn is next. It stands for a host write of the word to CMD that was accepted (assumption log 5). -/
def State.withFetchWord (s : State) (nbits w : Nat) : State := s.withPending (commandWord nbits w)

end Sys2Proof.Machine
end

