-- ==== Sys2Proof/Safety.lean ====
section
/-! DEFINITION. The terms the statements use: which inputs the interface admits, when the sequencer's turn is next, what a
completion leaves, the invariant of the block's runs, and a session's accumulation (spec/20_memory.md R52,
spec/30_encoding.md R73, spec/60_exceptions.md R118, R120, spec/10_state.md R39, R42, R44). -/

namespace Sys2Proof.Machine

/-- Duty (a) of R146: a host access is 32 bits wide at an offset that is a multiple of 4 (R52). Every other input is
admitted. A run is safe when it takes only admitted inputs: the block itself never faults and never refuses. -/
def Event.admitted : Event → Bool
  | .read width off => decide (width = 32) && decide (off.toNat % 4 = 0)
  | .write width off _ => decide (width = 32) && decide (off.toNat % 4 = 0)
  | .sequencer => true
  | .rstN _ => true

/-- Every input still to come is admitted. -/
abbrev State.SafeInputs (s : State) : Prop := ∀ e ∈ s.inputs, e.admitted = true

/-- The sequencer's turn is next: it is scheduled, or no input waits (R141). -/
abbrev State.TurnIsNext (s : State) : Prop := s.inputs = [] ∨ s.inputs.head? = some .sequencer

/-- The state `s` with the host's next access put first among the inputs. -/
def State.arrives (s : State) (e : Event) : State := { s with inputs := e :: s.inputs }

/-- What the commit of R120 adds to a command's writes: STATUS.ERR <- e, STATUS.DONE <- 1, PEND <- none. -/
def State.completedAs (s : State) (e : BitVec 4) : State := { s with err := e, done := true, pend := none }

/-- The offsets of the busy-locked registers a host can write: CMD, MNLEN, ENTCFG, WBUF, ENT and MN (R30, R142). -/
def lockedForWrites (off : Offset) : Bool :=
  let n := off.toNat
  decide (n = 0x00C) || decide (n = 0x018) || decide (n = 0x01C) ||
    (decide (0x030 ≤ n) && decide (n ≤ 0x03C)) || (decide (0x040 ≤ n) && decide (n ≤ 0x05C)) ||
    (decide (0x080 ≤ n) && decide (n ≤ 0x0DC))

/-- The offsets of the registers busy-locked for reads: RESULT, INVMASK, MNLEN, ENTCFG, SESSION, WBUF, ENT, ACC and MN
(R143). -/
def lockedForReads (off : Offset) : Bool :=
  let n := off.toNat
  (decide (0x010 ≤ n) && decide (n ≤ 0x020)) || (decide (0x030 ≤ n) && decide (n ≤ 0x07C)) ||
    (decide (0x080 ≤ n) && decide (n ≤ 0x0DC))

/-- The offsets of the read-only registers: ID, RESULT, INVMASK, SESSION and ACC (R142). -/
def readOnlyOffset (off : Offset) : Bool :=
  let n := off.toNat
  decide (n = 0x000) || decide (n = 0x010) || decide (n = 0x014) || decide (n = 0x020) ||
    (decide (0x060 ≤ n) && decide (n ≤ 0x07C))

/-- The unmapped offsets: 0x024 to 0x02C and 0x0E0 to 0xFFF (R51). -/
def unmappedOffset (off : Offset) : Bool :=
  let n := off.toNat
  (decide (0x024 ≤ n) && decide (n ≤ 0x02F)) || decide (0x0E0 ≤ n)

/-- The bits a register that the host writes and reads back keeps: MNLEN 7:0 (R37), ENTCFG 0 (R38), MN 31 and 10:0 (R43),
all of WBUF and ENT (R40, R41). -/
def keptBits (off : Offset) : Word :=
  let n := off.toNat
  if n = 0x018 then 0x000000FF#32
  else if n = 0x01C then 0x00000001#32
  else if 0x080 ≤ n ∧ n ≤ 0x0DC then 0x800007FF#32
  else 0xFFFFFFFF#32

/-- The form every command with no operand has: the words whose OP is `op` complete with WORDLIST_INTEGRITY when FATAL = 1,
else with ILLEGAL_COMMAND when one of the bits 31:8 is 1, and stand for `i` when none is (R68, R70, R119). -/
abbrev PlainCommand (op : BitVec 8) (i : Instr) : Prop :=
  ∀ (s : State) (c : Word), s.pend = some c → opField c = op →
    (s.fatal = true → sequencerTurn s = .next (s.completedAs 7#4)) ∧
    (s.fatal = false → aboveOp c ≠ 0#24 → sequencerTurn s = .next (s.completedAs 8#4)) ∧
    (aboveOp c = 0#24 → sequencerTurn s = exec i s)

/-- The next input is a reset of the block: a CTRL write with bit 1 = 1 (R138), or RST_N driven (R136). -/
abbrev State.ResetIsNext (s : State) : Prop :=
  (∃ v, v.getLsbD 1 = true ∧ s.inputs.head? = some (.write 32 0x004#12 v)) ∨
  ∃ level, s.inputs.head? = some (.rstN level)

/-- The codes a command can complete with beside WORDLIST_INTEGRITY and ILLEGAL_COMMAND, by their numbers (R118). -/
def ownCodes : Instr → List (BitVec 4)
  | .lookup _ => [0#4, 1#4]
  | .wordat _ => [0#4]
  | .validate => [0#4, 2#4, 3#4]
  | .checksum => [0#4]
  | .recover => [0#4, 2#4, 3#4, 6#4]
  | .encode => [0#4]
  | .clrsess => [0#4]
  | .accum => [0#4, 4#4]
  | .finalize => [0#4, 5#4]

/-- A valid mnemonic of size `z` in the slots: MNLEN = N and V = 1 in every slot below N (R95). -/
abbrev State.HoldsMnemonic (s : State) (z : Size) : Prop :=
  s.mnlen.toNat = z.nWords ∧ ∀ i < z.nWords, (s.slot i).v = true

/-- The slots hold the mnemonic of the entropy `e` of size `z`, as `emit(e)` of R110 writes it: N slots with V = 1 whose
indices are `e` and its checksum, the slots from N on cleared, and MNLEN = N. -/
abbrev State.HoldsMnemonicOf (s : State) (z : Size) (e : Bits) : Prop :=
  s.HoldsMnemonic z ∧ s.pack z.nWords = e ++ chk e z.csW ∧ ∀ i, z.nWords ≤ i → s.slot i = Slot.empty

/-- The state after one ACCUM of the registers `e` with ENTCFG selecting size `z`. -/
def accumulate (z : Size) (s : State) (e : Vector Word 8) : State :=
  match exec .accum { s with ent := e, elen := z.elen } with
  | .next t => t
  | .fault _ => s
  | .refused _ => s

/-- The invariant of the block's runs: what holds at reset and after every step. -/
structure BlockInv (s : State) : Prop where
  /-- FATAL is the result of the integrity check (R137). -/
  fatal_is_check : s.fatal = !wordlistOk Config.WORDLIST
  /-- DONE = 1 and BUSY = 1 never hold together (R123), and ERR is 0 while a command is pending (R33). -/
  busy_not_done : s.pend.isSome = true → s.done = false ∧ s.err = 0#4
  /-- STATUS.ERR never holds a reserved code (R117). -/
  err_not_reserved : s.err.toNat ≤ 8
  /-- WORDLIST_INTEGRITY is reported only by a block whose list is bad (R127). -/
  integrity_code_only_if_fatal : s.err = 7#4 → s.fatal = true
  /-- A block with a bad list reports no other code and runs no command (R127). -/
  fatal_is_inert : s.fatal = true →
    (s.err = 0#4 ∨ s.err = 7#4) ∧ s.result = 0#32 ∧ s.invmask = 0#24 ∧ s.padcnt = 0#8 ∧ s.slen = 0#2
  /-- SLEN = 0 if and only if PADCNT = 0 (R39). -/
  slen_iff_padcnt : s.slen = 0#2 ↔ s.padcnt = 0#8
  /-- SLEN = 3 is never produced (R39). -/
  slen_not_reserved : s.slen ≠ 3#2
  /-- An empty session's accumulator is 0 (R105, R139). -/
  acc_of_empty_session : s.slen = 0#2 → s.acc = Vector.replicate 8 0#32
  /-- When SLEN = 1, ACC[4..7] are 0 (R42). -/
  acc_upper_half : s.slen = 1#2 → ∀ k, 4 ≤ k → s.accWord k = 0#32
  /-- While RST_N = 0 every register has its reset value and no command is pending: the model's choice, since R136 gives the
  reset state at the rise (assumption log 7). -/
  held_in_reset : s.rstN = false → resetState s = s

end Sys2Proof.Machine
end

