-- ==== Sys2Proof/Certificates/Slice0/Obligations.lean ====
section
/-! DEFINITION. The statements for the provers, from the numbered rules of spec/. Each docstring names the rules. -/

open Sys2Proof Sys2Proof.Machine

/-! ### The command word -/

/-- R68, R70, R74: a well-formed command is what the decoder reads from its encoding, and a word the decoder reads is the
encoding of a well-formed command, so no bit of a legal word is dropped. -/
def Obligations.DecodeAndEncodeAgree : Prop :=
  (∀ i : Instr, i.WellFormed → decode (encode i) = .ok i) ∧
  ∀ (c : Word) (i : Instr), decode c = .ok i → i.WellFormed ∧ encode i = c

/-- R70: the field-by-field predicate holds exactly of the words that select a row of R69. -/
def Obligations.LegalWordsSelectARow : Prop :=
  ∀ c : Word, legal c = true ↔ ∃ r ∈ opRows, selects c r = true

/-- R69: a word selects a row when its masked bits are the row's and the extra condition holds, exactly when it
decodes to the row's command; no word selects two rows. The last clause is R69's derived sentence. -/
def Obligations.RowSelectsItsCommandAlone : Prop :=
  (∀ (c : Word) (r : OpRow), r ∈ opRows →
    (selects c r = true ↔ ∃ i, decode c = .ok i ∧ i.mnemonic = r.mnemonic)) ∧
  ∀ (c : Word) (r r' : OpRow), r ∈ opRows → r' ∈ opRows → selects c r = true → selects c r' = true → r = r'

/-- 95_test_vectors.md section 2.1, V-EN-1 to V-EN-10: words written out from the spec decode to their commands. -/
def Obligations.VectorWordsDecode : Prop :=
  decode 0x00000001#32 = .ok (.lookup 0#5) ∧ decode 0x00001701#32 = .ok (.lookup 23#5) ∧
  decode 0x00030002#32 = .ok (.wordat 3#11) ∧ decode 0x07FF0002#32 = .ok (.wordat 2047#11) ∧
  decode 0x00000003#32 = .ok .validate ∧ decode 0x00000004#32 = .ok .checksum ∧
  decode 0x00000005#32 = .ok .recover ∧ decode 0x00000006#32 = .ok .encode ∧
  decode 0x00000007#32 = .ok .clrsess ∧ decode 0x00000008#32 = .ok .accum ∧ decode 0x00000009#32 = .ok .finalize

/-! ### Issue, dispatch and completion -/

/-- R72: a CMD write with no command pending makes the three writes of acceptance and no other change; with one pending it
is not accepted: PEND stays and OVR is set (R142). -/
def Obligations.CommandIsAcceptedAtOnce : Prop :=
  ∀ (s : State) (c : Word), s.rstN = true →
    (s.pend = none →
      step (s.arrives (.write 32 0x00C#12 c)) = .next { s with pend := some c, done := false, err := 0#4 }) ∧
    (s.pend ≠ none → step (s.arrives (.write 32 0x00C#12 c)) = .next { s with ovr := true })

/-- R73: the sequencer's turn on a state whose pending word decodes to `i` is the meaning of `i` there. `withFetchWord` makes
it the very next step; it stands for an accepted CMD write (log entry 5). R135: a turn with nothing pending is idle and
loses no state. -/
def Obligations.StepRunsTheDecodedCommand : Prop :=
  (∀ (s : State) (c : Word) (i : Instr), s.TurnIsNext → s.pend = some c → decode c = .ok i → i.WellFormed →
    step s = exec i s.afterTurn) ∧
  (∀ (s : State) (nbits w : Nat) (i : Instr), decodeTableWord nbits w = some i →
    step (s.withFetchWord nbits w) = exec i { s with pend := some (commandWord nbits w) }) ∧
  ∀ s : State, s.TurnIsNext → s.pend = none → step s = .next { s with inputs := s.inputs.tail }

/-- R71: an illegal command is accepted like any command and completes with ILLEGAL_COMMAND and no other effect; the
illegal words are those R71 lists. -/
def Obligations.IllegalCommandOnlyCompletes : Prop :=
  (∀ c : Word, legal c = false ↔
    (opField c = 0x00#8 ∨ 0x0A ≤ (opField c).toNat ∨
      (opField c = 0x01#8 ∧ (aboveSlot c ≠ 0#19 ∨ 24 ≤ (slotField c).toNat)) ∨
      (opField c = 0x02#8 ∧ (aboveImm11 c ≠ 0#5 ∨ belowImm11 c ≠ 0#8)) ∨
      (3 ≤ (opField c).toNat ∧ (opField c).toNat ≤ 9 ∧ aboveOp c ≠ 0#24))) ∧
  ∀ (s : State) (c : Word), legal c = false → s.fatal = false → s.rstN = true → s.pend = none →
    step (s.arrives (.write 32 0x00C#12 c)) = .next { s with pend := some c, done := false, err := 0#4 } ∧
    sequencerTurn { s with pend := some c, done := false, err := 0#4 } =
      .next { s with pend := none, done := true, err := 8#4 }

/-- R119 (1), R127: with FATAL = 1 every command word, legal or not, completes with WORDLIST_INTEGRITY and changes nothing
else. -/
def Obligations.BadWordListFailsEveryCommand : Prop :=
  (∀ (i : Instr) (s : State), s.fatal = true → exec i s = .next (s.completedAs 7#4)) ∧
  ∀ (s : State) (c : Word), s.TurnIsNext → s.fatal = true → s.pend = some c →
    step s = .next (s.afterTurn.completedAs 7#4)

/-- R118: beside WORDLIST_INTEGRITY and ILLEGAL_COMMAND a command completes only with the codes of its row, and it always
completes: DONE = 1 and nothing pending. -/
def Obligations.CommandsCompleteWithTheirOwnCodes : Prop :=
  ∀ (i : Instr) (s : State), ∃ t, exec i s = .next t ∧ t.done = true ∧ t.pend = none ∧
    (s.fatal = true → t.err = 7#4) ∧ (s.fatal = false → i.wellFormed = false → t.err = 8#4) ∧
    (s.fatal = false → i.WellFormed → t.err ∈ ownCodes i)

/-- R121: a command-specific error writes RESULT <- 0, INVMASK for the codes of VALIDATE and RECOVER alone, the named slot
alone for LOOKUP, and nothing else; WORDLIST_INTEGRITY and ILLEGAL_COMMAND write nothing. -/
def Obligations.ErrorMakesOnlyItsOwnWrites : Prop :=
  ∀ (i : Instr) (s t : State), exec i s = .next t →
    (1 ≤ t.err.toNat → t.err.toNat ≤ 6 →
      t = ({ s with result := 0#32, invmask := t.invmask, mn := t.mn }).completedAs t.err ∧
      (t.err ≠ 2#4 → t.err ≠ 3#4 → t.err ≠ 6#4 → t.invmask = s.invmask) ∧
      (t.err = 2#4 ∨ t.err = 6#4 → t.invmask = 0#24) ∧
      (t.err ≠ 1#4 → t.mn = s.mn) ∧
      (t.err = 1#4 → ∃ slot, i = .lookup slot ∧ t.mn = s.mn.setIfInBounds slot.toNat Slot.empty)) ∧
    (7 ≤ t.err.toNat → t = s.completedAs t.err)

/-- R36, R37, R38, R39, R40, R41, R42, R43: which commands write which register; no command writes CTRL, OVR or FATAL. -/
def Obligations.OnlyTheNamedCommandsWriteARegister : Prop :=
  ∀ (i : Instr) (s t : State), exec i s = .next t →
    (t.invmask ≠ s.invmask → i = .validate ∨ i = .recover) ∧
    (t.mnlen ≠ s.mnlen → i = .encode ∨ i = .finalize) ∧
    (t.elen ≠ s.elen → i = .recover ∨ i = .finalize) ∧
    (t.padcnt ≠ s.padcnt ∨ t.slen ≠ s.slen ∨ t.acc ≠ s.acc → i = .clrsess ∨ i = .accum) ∧
    (t.wbuf ≠ s.wbuf → ∃ n, i = .wordat n) ∧
    (t.ent ≠ s.ent → i = .recover ∨ i = .finalize) ∧
    (t.mn ≠ s.mn → (∃ slot, i = .lookup slot) ∨ i = .encode ∨ i = .finalize) ∧
    t.ie = s.ie ∧ t.ovr = s.ovr ∧ t.fatal = s.fatal ∧ t.rstN = s.rstN ∧ t.inputs = s.inputs ∧ t.rdata = s.rdata ∧
    t.draws = s.draws

/-- R46: no command reads a STATUS field but FATAL, and none reads CTRL or PEND. -/
def Obligations.CommandsReadNoStatusButFatal : Prop :=
  ∀ (i : Instr) (s t : State) (ie done ovr : Bool) (err : BitVec 4) (pend : Option Word), exec i s = .next t →
    exec i { s with ie := ie, done := done, ovr := ovr, err := err, pend := pend } = .next { t with ie := ie, ovr := ovr }

/-- R41: with ELEN = 0 no command reads ENT[4..7]; a command leaves them as they were or writes ENT whole. -/
def Obligations.UpperEntropyIsNotReadForTwelveWords : Prop :=
  ∀ (i : Instr) (s t : State) (e : Vector Word 8), s.elen = false →
    (∀ k, k < 4 → e.toList.getD k 0#32 = s.entWord k) → exec i s = .next t →
    ∃ u, exec i { s with ent := e } = .next u ∧ t = { u with ent := t.ent } ∧
      ((t.ent = s.ent ∧ u.ent = e) ∨ u.ent = t.ent)

/-! ### The word list: LOOKUP and WORDAT -/

/-- R78: the integrity predicate holds exactly when every entry has 1 to 16 bytes, none of them zero, and no two entries
are equal; the block evaluates it at reset. -/
def Obligations.WordListIntegrityPredicate : Prop :=
  (∀ W : Idx → List Byte, wordlistOk W = true ↔
    (∀ i, 1 ≤ (W i).length ∧ (W i).length ≤ 16 ∧ ∀ b ∈ W i, b ≠ 0x00#8) ∧ ∀ i j, i ≠ j → W i ≠ W j) ∧
  State.reset.fatal = !wordlistOk Config.WORDLIST

/-- R80: `index_of(b)` is an index whose padded entry is b when one exists and NotFound otherwise; under wordlist_ok it is
the one such index (which R80 marks as derived). -/
def Obligations.IndexOfFindsThePaddedEntry : Prop :=
  ∀ (W : Idx → List Byte) (b : List Byte),
    (∀ i, indexOf W b = some i → pad16 (W i) = b) ∧ (indexOf W b = none ↔ ∀ i, pad16 (W i) ≠ b) ∧
    (wordlistOk W = true → ∀ i, pad16 (W i) = b → indexOf W b = some i)

/-- R82: LOOKUP s. The words with OP = 0x01 by their fields; the found and the not-found outcome; and a buffer whose first
byte is 0, or in which a zero byte stands before a nonzero one, is found in no list that passes the check. -/
def Obligations.LookupEncodesTheWord : Prop :=
  (∀ (s : State) (c : Word), s.pend = some c → opField c = 0x01#8 →
    (s.fatal = true → sequencerTurn s = .next (s.completedAs 7#4)) ∧
    (s.fatal = false → aboveSlot c ≠ 0#19 ∨ 24 ≤ (slotField c).toNat →
      sequencerTurn s = .next (s.completedAs 8#4)) ∧
    (aboveSlot c = 0#19 → (slotField c).toNat ≤ 23 → sequencerTurn s = exec (.lookup (slotField c)) s)) ∧
  (∀ (slot : BitVec 5) (s : State), slot.toNat ≤ 23 → s.fatal = false →
    exec (.lookup slot) s = .next
      (match indexOf Config.WORDLIST s.wbufBytes with
       | none => ({ s with mn := s.mn.setIfInBounds slot.toNat Slot.empty, result := 0#32 }).completedAs 1#4
       | some r =>
          ({ s with
             mn := s.mn.setIfInBounds slot.toNat { v := true, idx := r }
             result := 0x80000000#32 + r.setWidth 32 }).completedAs 0#4)) ∧
  ∀ (W : Idx → List Byte) (s : State), wordlistOk W = true →
    byteAt s.wbufBytes 0 = 0x00#8 ∨
      (∃ j k, j < k ∧ byteAt s.wbufBytes j = 0x00#8 ∧ byteAt s.wbufBytes k ≠ 0x00#8) →
    indexOf W s.wbufBytes = none

/-- R83: WORDAT i. The words with OP = 0x02 by their fields, and the outcome. -/
def Obligations.WordatDecodesTheIndex : Prop :=
  (∀ (s : State) (c : Word), s.pend = some c → opField c = 0x02#8 →
    (s.fatal = true → sequencerTurn s = .next (s.completedAs 7#4)) ∧
    (s.fatal = false → aboveImm11 c ≠ 0#5 ∨ belowImm11 c ≠ 0#8 → sequencerTurn s = .next (s.completedAs 8#4)) ∧
    (aboveImm11 c = 0#5 → belowImm11 c = 0#8 → sequencerTurn s = exec (.wordat (imm11Field c)) s)) ∧
  ∀ (i : Idx) (s : State), s.fatal = false →
    ∃ t, exec (.wordat i) s = .next t ∧
      (∀ k : Fin 4, t.wbuf[k] = bytesWord (pad16 (Config.WORDLIST i)) k.val) ∧
      t = ({ s with wbuf := t.wbuf, result := BitVec.ofNat 32 (Config.WORDLIST i).length }).completedAs 0#4

/-- R79, R83: for any entry of 1 to 16 bytes, WORDAT leaves the entry's bytes followed by zero bytes in the 16-byte
buffer, whatever it held. -/
def Obligations.WordatLeavesThePaddedEntry : Prop :=
  ∀ (W : Idx → List Byte) (i : Idx) (s : State), 1 ≤ (W i).length → (W i).length ≤ 16 →
    (wordatOutcome W i s).writes.wbufBytes = W i ++ List.replicate (16 - (W i).length) 0x00#8

/-- R84: under wordlist_ok, WORDAT then LOOKUP gives the index back, LOOKUP then WORDAT gives the buffer back, and
LOOKUP completes OK for exactly 2048 of the possible WBUF contents. R84 marks its laws as derived. -/
def Obligations.WordListIsABijection : Prop :=
  ∀ W : Idx → List Byte, wordlistOk W = true →
    (∀ (i : Idx) (slot : Nat) (s : State), slot ≤ 23 →
      (lookupOutcome W slot (commit (wordatOutcome W i s))).code = .ok ∧
      (lookupOutcome W slot (commit (wordatOutcome W i s))).writes.slot slot = { v := true, idx := i }) ∧
    (∀ (slot : Nat) (s : State), slot ≤ 23 → (lookupOutcome W slot s).code = .ok →
      (wordatOutcome W ((lookupOutcome W slot s).writes.slot slot).idx
        (commit (lookupOutcome W slot s))).writes.wbuf = s.wbuf) ∧
    ∀ (slot : Nat) (s : State), slot ≤ 23 →
      Set.ncard { b : Vector Word 4 | (lookupOutcome W slot { s with wbuf := b }).code = .ok } = 2048

/-! ### Bit layout, SHA-256 and the checksum -/

/-- R19, R41: the registers `put_ent` writes read back as the string it was given, and the registers past a 128-bit string
are 0. -/
def Obligations.EntropyRegistersHoldTheString : Prop :=
  ∀ (s : State) (z : Size) (e : Bits), e.length = z.entW →
    (s.putEnt e).entbits z = e ∧ ∀ k, z.entW / 32 ≤ k → (s.putEnt e).entWord k = 0#32

/-- R86: `split` of packed indices is the indices, for every number of slots. R86 marks the sentence as derived. -/
def Obligations.SplitOfPackIsTheIndices : Prop :=
  ∀ (s : State) (n : Nat), n ≤ 24 → split (s.pack n) = (List.range n).map fun j => (s.slot j).idx

/-- R87: the bytes hashed are all L/8 bytes of the entropy, byte j from register j div 4. R87 marks the byte view as
derived. -/
def Obligations.HashedBytesAreTheRegisterBytes : Prop :=
  ∀ (s : State) (z : Size), (bitsBytes (s.entbits z)).length = z.entW / 8 ∧
    ∀ j, j < z.entW / 8 →
      byteAt (bitsBytes (s.entbits z)) j = (s.entWord (j / 4)).extractLsb' (24 - 8 * (j % 4)) 8

/-- 95_test_vectors.md V1 and V-CK-8: SHA-256 of sixteen zero bytes and of thirty-two bytes 0xFF. -/
def Obligations.Sha256KnownAnswers : Prop :=
  (sha256 (List.replicate 16 0x00#8)).map BitVec.toNat =
    [0x37, 0x47, 0x08, 0xff, 0xf7, 0x71, 0x9d, 0xd5, 0x97, 0x9e, 0xc8, 0x75, 0xd5, 0x6c, 0xd2, 0x28,
     0x6f, 0x6d, 0x3c, 0xf7, 0xec, 0x31, 0x7a, 0x3b, 0x25, 0x63, 0x2a, 0xab, 0x28, 0xec, 0x37, 0xbb] ∧
  (sha256 (List.replicate 32 0xff#8)).map BitVec.toNat =
    [0xaf, 0x96, 0x13, 0x76, 0x0f, 0x72, 0x63, 0x5f, 0xbd, 0xb4, 0x4a, 0x5a, 0x0a, 0x63, 0xc3, 0x9f,
     0x12, 0xaf, 0x30, 0xf9, 0x50, 0xa6, 0xee, 0x5c, 0x97, 0x1b, 0xe1, 0x88, 0xe8, 0x9c, 0x40, 0x51]

/-- R91: CHK(e, c) is the first c bits of the hash: the high nibble of its first byte when c = 4, the whole of it when
c = 8. R91 marks the last two clauses as derived. -/
def Obligations.ChecksumIsTheHashsFirstBits : Prop :=
  ∀ (e : Bits), e.length = 128 ∨ e.length = 256 →
    chk e (e.length / 32) = slice (bytesBits (sha256 (bitsBytes e))) 0 (e.length / 32) ∧
    chk e 4 = bin 4 ((byteAt (sha256 (bitsBytes e)) 0).toNat / 16) ∧
    chk e 8 = bin 8 (byteAt (sha256 (bitsBytes e)) 0).toNat

/-- R93: CHECKSUM, OP = 0x04, hashes the 16 or 32 bytes of ENT that ELEN selects and writes the top 4 or 8 bits of the hash to RESULT,
nothing else. -/
def Obligations.ChecksumHashesTheEntropy : Prop :=
  PlainCommand 0x04#8 .checksum ∧
  ∀ s : State, s.fatal = false →
    exec .checksum s = .next
      (({ s with
          result := BitVec.ofNat 32
            (if s.elen then (byteAt (sha256 (s.ent.toList.flatMap wordBytes)) 0).toNat
             else (byteAt (sha256 ((s.ent.toList.take 4).flatMap wordBytes)) 0).toNat / 16) }).completedAs 0#4)

/-! ### Pad validation and last-word recovery -/

/-- R95, R96: VALIDATE, OP = 0x03, checks the count first, then the V bits of the slots below it; bit i of the mask is slot i. -/
def Obligations.ValidateReportsCountThenWords : Prop :=
  PlainCommand 0x03#8 .validate ∧
  ∀ s : State, s.fatal = false → ∃ m : BitVec 24,
    (∀ i, i < 24 → m.getLsbD i = (decide (i < s.mnlen.toNat) && !(s.slot i).v)) ∧
    exec .validate s = .next
      (if s.mnlen ≠ 12#8 ∧ s.mnlen ≠ 24#8 then ({ s with result := 0#32, invmask := 0#24 }).completedAs 2#4
       else if m = 0#24 then ({ s with result := 0#32, invmask := 0#24 }).completedAs 0#4
       else ({ s with result := 0#32, invmask := m }).completedAs 3#4)

/-- R99: the direct form gives the same result as the search for every state. R99 marks the sentence as derived. -/
def Obligations.SearchEqualsDirectSlicing : Prop :=
  ∀ (s : State) (z : Size), search s z = searchDirect s z

/-- R98: at most one candidate can match, the one whose bits are the top bits of the last index, and the search finds
it exactly when the checksum of its entropy is the rest of the last index. R98 is marked as derived. -/
def Obligations.OnlyTheTopBitsOfTheLastIndexCanMatch : Prop :=
  ∀ (s : State) (z : Size),
    let pre := s.pack (z.nWords - 1)
    let last := (s.slot (z.nWords - 1)).idx.toNat
    let cand := pre ++ bin z.addW (last / 2 ^ z.csW)
    (∀ combo f, combo < 2 ^ z.addW → tryCombo z pre (s.slot (z.nWords - 1)).idx combo = some f →
      combo = last / 2 ^ z.csW) ∧
    (chk cand z.csW = bin z.csW (last % 2 ^ z.csW) →
      search s z = some { combo := last / 2 ^ z.csW, cs := chk cand z.csW, cand := cand }) ∧
    (chk cand z.csW ≠ bin z.csW (last % 2 ^ z.csW) → search s z = none)

/-- R100: RECOVER, OP = 0x05. INVALID_WORD_COUNT and INVALID_WORDS as for VALIDATE. A valid mnemonic's first L bits are
taken as the entropy when their checksum is the bits that follow (the direct form R100 allows, R99), and then ENT, ELEN,
RESULT and INVMASK are written; else it completes with CHECKSUM_RECOVERY_FAILED and leaves ENT and ENTCFG as they were. -/
def Obligations.RecoverTakesTheEntropyOrFails : Prop :=
  PlainCommand 0x05#8 .recover ∧
  (∀ s t : State, s.fatal = false → exec .validate s = .next t → t.err ≠ 0#4 → exec .recover s = .next t) ∧
  ∀ (s : State) (z : Size), s.fatal = false → s.HoldsMnemonic z →
    let e := (s.pack z.nWords).take z.entW
    let cs := (s.pack z.nWords).drop z.entW
    (chk e z.csW = cs → ∃ t, exec .recover s = .next t ∧ t.entbits z = e ∧
      (∀ k, z.entW / 32 ≤ k → t.entWord k = 0#32) ∧
      t = ({ s with
             ent := t.ent
             elen := z.elen
             invmask := 0#24
             result := BitVec.ofNat 32 (val cs * 256 + val (e.drop (z.entW - z.addW))) }).completedAs 0#4) ∧
    (chk e z.csW ≠ cs → exec .recover s = .next (({ s with result := 0#32, invmask := 0#24 }).completedAs 6#4))

/-- R102: with the last word of a recovered mnemonic changed, RECOVER fails when the suffix bits stay, and else
accepts exactly when the checksum of the new entropy is the rest of the new index. R102 marks the sentences as
derived. -/
def Obligations.ChangedLastWordIsCaughtByItsChecksum : Prop :=
  ∀ (s t : State) (z : Size) (w : Idx), s.fatal = false → s.HoldsMnemonic z → exec .recover s = .next t → t.err = 0#4 →
    w ≠ (s.slot (z.nWords - 1)).idx →
    ∃ u, exec .recover (s.putSlot (z.nWords - 1) { v := true, idx := w }) = .next u ∧
      (w.toNat / 2 ^ z.csW = (s.slot (z.nWords - 1)).idx.toNat / 2 ^ z.csW → u.err = 6#4) ∧
      (w.toNat / 2 ^ z.csW ≠ (s.slot (z.nWords - 1)).idx.toNat / 2 ^ z.csW →
        (u.err = 0#4 ↔ chk (s.pack (z.nWords - 1) ++ bin z.addW (w.toNat / 2 ^ z.csW)) z.csW =
          bin z.csW (w.toNat % 2 ^ z.csW)))

/-! ### The session -/

/-- R105: CLRSESS, OP = 0x07. -/
def Obligations.ClrsessEmptiesTheSession : Prop :=
  PlainCommand 0x07#8 .clrsess ∧
  ∀ s : State, s.fatal = false →
    exec .clrsess s = .next
      (({ s with acc := #v[0, 0, 0, 0, 0, 0, 0, 0], padcnt := 0#8, slen := 0#2, result := 0#32 }).completedAs 0#4)

/-- R106: ACCUM, OP = 0x08: a pad of the session's length, or of any length into an empty session, is XORed in; a pad of
another length is refused with INCONSISTENT_PAD_LENGTH. -/
def Obligations.AccumXorsTheEntropyIn : Prop :=
  PlainCommand 0x08#8 .accum ∧
  (∀ s : State, s.fatal = false → s.slen = 0#2 ∨ s.slen = s.size.slen →
    ∃ t, exec .accum s = .next t ∧
      (∀ k, k < 8 → t.accWord k = if k < s.size.entW / 32 then s.accWord k ^^^ s.entWord k else s.accWord k) ∧
      t.padcnt.toNat = min (s.padcnt.toNat + 1) 255 ∧ t.result.toNat = t.padcnt.toNat ∧
      t = ({ s with acc := t.acc, padcnt := t.padcnt, slen := s.size.slen, result := t.result }).completedAs 0#4) ∧
  ∀ s : State, s.fatal = false → s.slen ≠ 0#2 → s.slen ≠ s.size.slen →
    exec .accum s = .next (({ s with result := 0#32 }).completedAs 4#4)

/-- R104: after a CLRSESS and then one ACCUM for each of e_1, …, e_n, ACC is their combination, PADCNT is min(n, 255),
and the bits of ACC beyond L are 0. R104 marks the sentences as derived. -/
def Obligations.SessionHoldsTheCombination : Prop :=
  ∀ (z : Size) (s c : State) (e : Vector Word 8) (es : List (Vector Word 8)), s.fatal = false →
    exec .clrsess s = .next c →
    let t := (e :: es).foldl (accumulate z) c
    t.accbits z = (es.map fun x => fileBits x z).foldl xorBits (fileBits e z) ∧
    t.padcnt.toNat = min (es.length + 1) 255 ∧ t.slen = z.slen ∧ t.err = 0#4 ∧
    ∀ k, z.entW / 32 ≤ k → t.accWord k = 0#32

/-- R108: the four laws of ⊕ on bit strings of one length. R108 marks them as derived. -/
def Obligations.XorLaws : Prop :=
  ∀ (n : Nat) (a b c : Bits), a.length = n → b.length = n → c.length = n →
    xorBits a b = xorBits b a ∧ xorBits (xorBits a b) c = xorBits a (xorBits b c) ∧
    xorBits a a = zeros n ∧ xorBits (xorBits a b) b = a

/-- R108: the final ACC of a session does not depend on the order of its ACCUMs, and two ACCUMs of the same pad
cancel. R108 draws both from its derived laws. -/
def Obligations.AccumOrderDoesNotMatter : Prop :=
  (∀ (z : Size) (s : State) (es es' : List (Vector Word 8)), es.Perm es' →
    (es.foldl (accumulate z) s).acc = (es'.foldl (accumulate z) s).acc) ∧
  ∀ (z : Size) (s : State) (e : Vector Word 8), (accumulate z (accumulate z s e) e).acc = s.acc

/-! ### Mnemonic encoding and reconstruction -/

/-- R111: ENCODE, OP = 0x06, leaves the mnemonic of the entropy in ENT in the slots, its checksum in RESULT, and nothing else
changed. -/
def Obligations.EncodeWritesTheMnemonic : Prop :=
  PlainCommand 0x06#8 .encode ∧
  ∀ s : State, s.fatal = false →
    ∃ t, exec .encode s = .next t ∧ t.HoldsMnemonicOf s.size (s.entbits s.size) ∧
      t.result = BitVec.ofNat 32 (val (chk (s.entbits s.size) s.size.csW)) ∧
      t = ({ s with mn := t.mn, mnlen := t.mnlen, result := t.result }).completedAs 0#4

/-- R112: FINALIZE, OP = 0x09, of a session of at least two pads, and its refusal with INSUFFICIENT_PADS of fewer. SLEN is
1 or 2 in a session of two pads (R39); `StepKeepsTheInvariant` says so of every run. -/
def Obligations.FinalizeWritesTheCombinedMnemonic : Prop :=
  PlainCommand 0x09#8 .finalize ∧
  (∀ (s : State) (z : Size), s.fatal = false → 2 ≤ s.padcnt.toNat → s.slen = z.slen →
    ∃ t, exec .finalize s = .next t ∧ t.HoldsMnemonicOf z (s.accbits z) ∧
      (∀ k, k < 8 → t.entWord k = if k < z.entW / 32 then s.accWord k else 0#32) ∧
      t.result = BitVec.ofNat 32 (val (chk (s.accbits z) z.csW)) ∧
      t = ({ s with mn := t.mn, mnlen := t.mnlen, ent := t.ent, elen := z.elen, result := t.result }).completedAs 0#4) ∧
  ∀ s : State, s.fatal = false → s.padcnt.toNat < 2 →
    exec .finalize s = .next (({ s with result := 0#32 }).completedAs 5#4)

/-- R114: a mnemonic that RECOVER accepts is reproduced by ENCODE, the slots past it cleared. R114 marks the law as
derived. -/
def Obligations.EncodeOfRecoverIsTheMnemonic : Prop :=
  ∀ (s t : State) (z : Size), s.fatal = false → s.HoldsMnemonic z → exec .recover s = .next t → t.err = 0#4 →
    t.entbits z = (s.pack z.nWords).take z.entW ∧ t.elen = z.elen ∧
    ∃ u, exec .encode t = .next u ∧ u.err = 0#4 ∧ u.mnlen = s.mnlen ∧
      (∀ j, j < z.nWords → u.slot j = { v := true, idx := (s.slot j).idx }) ∧
      ∀ j, z.nWords ≤ j → u.slot j = Slot.empty

/-- R114, conversely: for every entropy, ENCODE then RECOVER completes OK and returns it. R114 marks the law as
derived. -/
def Obligations.RecoverOfEncodeIsTheEntropy : Prop :=
  ∀ s t : State, s.fatal = false → exec .encode s = .next t →
    ∃ u, exec .recover t = .next u ∧ u.err = 0#4 ∧ u.elen = s.elen ∧
      u.entbits s.size = s.entbits s.size ∧ ∀ k, s.size.entW / 32 ≤ k → u.entWord k = 0#32

/-- R115: two pads of one length, recovered and accumulated in a fresh session, finalise to the mnemonic of the XOR of
their entropies. The host writes each pad's slots and word count before its RECOVER, and
both RECOVERs are taken to complete OK. R115 marks the law as derived. -/
def Obligations.TwoPadReconstruction : Prop :=
  ∀ (z : Size) (s c p1 a1 p2 a2 : State) (m1 m2 : Vector Slot 24), s.fatal = false →
    exec .clrsess s = .next c →
    exec .recover { c with mn := m1, mnlen := BitVec.ofNat 8 z.nWords } = .next p1 → p1.err = 0#4 →
    exec .accum p1 = .next a1 →
    exec .recover { a1 with mn := m2, mnlen := BitVec.ofNat 8 z.nWords } = .next p2 → p2.err = 0#4 →
    exec .accum p2 = .next a2 →
    ∃ t, exec .finalize a2 = .next t ∧ t.err = 0#4 ∧
      t.HoldsMnemonicOf z (xorBits (p1.entbits z) (p2.entbits z))

/-! ### The register window -/

/-- R30, R51: the register map by its numbers; the offset of a register reaches that register, and the unmapped offsets are
exactly those R51 names. -/
def Obligations.RegisterMap : Prop :=
  (Reg.offset .id = 0x000#12 ∧ Reg.offset .ctrl = 0x004#12 ∧ Reg.offset .status = 0x008#12 ∧
    Reg.offset .cmd = 0x00C#12 ∧ Reg.offset .result = 0x010#12 ∧ Reg.offset .invmask = 0x014#12 ∧
    Reg.offset .mnlen = 0x018#12 ∧ Reg.offset .entcfg = 0x01C#12 ∧ Reg.offset .session = 0x020#12) ∧
  (∀ k : Fin 4, (Reg.offset (.wbuf k)).toNat = 0x030 + 4 * k.val) ∧
  (∀ k : Fin 8, (Reg.offset (.ent k)).toNat = 0x040 + 4 * k.val) ∧
  (∀ k : Fin 8, (Reg.offset (.acc k)).toNat = 0x060 + 4 * k.val) ∧
  (∀ i : Fin 24, (Reg.offset (.mn i)).toNat = 0x080 + 4 * i.val) ∧
  (∀ r : Reg, r.offset.toNat % 4 = 0 ∧ regAt r.offset = some r) ∧
  ∀ off : Offset, off.toNat % 4 = 0 → (regAt off = none ↔ unmappedOffset off = true)

/-- R48: BASE is a multiple of 4096, and a host address reaches a register offset exactly when it is BASE plus it. -/
def Obligations.WindowAddresses : Prop :=
  Config.BASE % 4096 = 0 ∧
  ∀ (addr : Nat) (off : Offset), windowOffset addr = some off ↔ addr = Config.BASE + off.toNat

/-- R143: while a command is pending a read of a busy-locked register returns the next draw, whatever it is; every
other read returns the exact value of its register, 0 for CMD, or 0 at an unmapped offset. A read changes nothing of
the block. That the draw is `Config.busyRead` of a running count is the model's choice of form (log entry 3). -/
def Obligations.ReadReturnsTheRegister : Prop :=
  ∀ (s : State) (off : Offset), s.rstN = true → off.toNat % 4 = 0 →
    (s.pend ≠ none → lockedForReads off = true →
      step (s.arrives (.read 32 off)) =
        .next { s with rdata := some (Config.busyRead s.draws), draws := s.draws + 1 }) ∧
    (s.pend = none ∨ lockedForReads off = false →
      (∀ r : Reg, off = r.offset →
        step (s.arrives (.read 32 off)) = .next { s with rdata := some (s.regWord r) }) ∧
      (off = 0x00C#12 ∨ unmappedOffset off = true →
        step (s.arrives (.read 32 off)) = .next { s with rdata := some 0#32 }))

/-- R142: while a command is pending a write to a busy-locked register is dropped and sets OVR; a write to a read-only
register or an unmapped offset is ignored, pending or not. -/
def Obligations.LockedWritesAreDroppedWithOverrun : Prop :=
  (∀ (s : State) (off : Offset) (v : Word), s.rstN = true → off.toNat % 4 = 0 → s.pend ≠ none →
    lockedForWrites off = true → step (s.arrives (.write 32 off v)) = .next { s with ovr := true }) ∧
  ∀ (s : State) (off : Offset) (v : Word), s.rstN = true → off.toNat % 4 = 0 →
    readOnlyOffset off = true ∨ unmappedOffset off = true → step (s.arrives (.write 32 off v)) = .next s

/-- R37, R38, R40, R41, R43: with no command pending a write to an operand register is read back in its defined bits, and
every other offset reads as before. -/
def Obligations.OperandWriteIsReadBack : Prop :=
  ∀ (s : State) (off : Offset) (v : Word), s.rstN = true → off.toNat % 4 = 0 → s.pend = none →
    lockedForWrites off = true → off ≠ 0x00C#12 →
    ∃ t, step (s.arrives (.write 32 off v)) = .next t ∧ t.readValue off = v &&& keptBits off ∧
      ∀ off' : Offset, off'.toNat % 4 = 0 → off' ≠ off → t.readValue off' = s.readValue off'

/-- R142: between acceptance and completion no host access but a soft reset changes what a command reads, or PEND.
R142 marks the sentence as derived. -/
def Obligations.OperandsStandWhileACommandIsPending : Prop :=
  ∀ (s t : State) (off : Offset) (v : Word), s.pend ≠ none → ¬ (off = 0x004#12 ∧ v.getLsbD 1 = true) →
    (step (s.arrives (.write 32 off v)) = .next t ∨ step (s.arrives (.read 32 off)) = .next t) →
    t = { s with rdata := t.rdata, draws := t.draws, ie := t.ie, done := t.done, ovr := t.ovr }

/-- R32, R138: a CTRL write with bit 1 = 1 is the soft reset, pending command and secrets gone and IE = 0; with bit 1
= 0 it sets IE to bit 0 and nothing else. CTRL reads IE in bit 0 and 0 elsewhere. That inputs, rdata and
draws stay is the model's choice (log entry 2). -/
def Obligations.CtrlWrite : Prop :=
  ∀ (s : State) (v : Word), s.rstN = true →
    s.regWord .ctrl = (if s.ie then 0x00000001#32 else 0x00000000#32) ∧
    (v.getLsbD 1 = true → step (s.arrives (.write 32 0x004#12 v)) =
      .next { State.reset with inputs := s.inputs, rdata := s.rdata, draws := s.draws }) ∧
    (v.getLsbD 1 = false → step (s.arrives (.write 32 0x004#12 v)) = .next { s with ie := v.getLsbD 0 })

/-- R33: a STATUS write clears DONE and OVR where bits 1 and 2 are written 1, at every time, and changes nothing else. -/
def Obligations.StatusWriteClearsWhatIsWrittenOne : Prop :=
  ∀ (s : State) (v : Word), s.rstN = true →
    step (s.arrives (.write 32 0x008#12 v)) =
      .next { s with
        done := if v.getLsbD 1 then false else s.done
        ovr := if v.getLsbD 2 then false else s.ovr }

/-- R52: a step refuses exactly when the next input is a host access that is not 32 bits wide at a multiple of 4; every
other step has a next state. -/
def Obligations.OnlyBadAccessesAreRefused : Prop :=
  ∀ s : State,
    let bad := ∃ e rest, s.inputs = e :: rest ∧
      ((∃ w off, e = .read w off ∧ (w ≠ 32 ∨ off.toNat % 4 ≠ 0)) ∨
       ∃ w off v, e = .write w off v ∧ (w ≠ 32 ∨ off.toNat % 4 ≠ 0))
    ((∃ r, step s = .refused r) ↔ bad) ∧ (¬ bad → ∃ t, step s = .next t)

/-! ### Interrupt, reset and runs -/

/-- R124: IRQ = CTRL.IE AND STATUS.DONE; every completion raises it when IE = 1, whatever its code, and a write of 1 to
STATUS bit 1, the acceptance of a command, IE <- 0 or a reset clears it. -/
def Obligations.InterruptFollowsDone : Prop :=
  (∀ s : State, s.rstN = true → (s.irq = true ↔ s.ie = true ∧ s.done = true)) ∧
  (∀ (i : Instr) (s t : State), s.rstN = true → s.ie = true → exec i s = .next t → t.irq = true) ∧
  (∀ (s t : State) (v : Word), v.getLsbD 1 = true → step (s.arrives (.write 32 0x008#12 v)) = .next t →
    t.irq = false) ∧
  (∀ (s t : State) (c : Word), s.pend = none → step (s.arrives (.write 32 0x00C#12 c)) = .next t → t.irq = false) ∧
  (∀ (s t : State) (v : Word), v.getLsbD 0 = false ∨ v.getLsbD 1 = true →
    step (s.arrives (.write 32 0x004#12 v)) = .next t → t.irq = false) ∧
  ∀ s t : State, step (s.arrives (.rstN false)) = .next t → t.irq = false

/-- R47, by the values of R30: after a soft reset, after RST_N rises and in the reset state itself, nothing is pending,
ID reads 0x42333958, STATUS reads 0 but for FATAL, the result of the integrity check, and every other register reads 0. -/
def Obligations.ResetState : Prop :=
  ∀ t : State,
    (t = State.reset ∨
      (∃ (s : State) (v : Word), s.rstN = true ∧ v.getLsbD 1 = true ∧ step (s.arrives (.write 32 0x004#12 v)) = .next t) ∨
      ∃ s : State, s.rstN = false ∧ step (s.arrives (.rstN true)) = .next t) →
    t.pend = none ∧ t.regWord .id = 0x42333958#32 ∧
    t.regWord .status = (if wordlistOk Config.WORDLIST then 0x00000000#32 else 0x00000008#32) ∧
    ∀ r : Reg, r ≠ .id → r ≠ .status → t.regWord r = 0x00000000#32

/-- R136: while RST_N = 0 no host access is taken and IRQ is 0, and when it rises the block is in the reset state, the
pending command abandoned. The model's choice, not R136's: driving RST_N low gives the reset state at once, an access
not taken is dropped, and a level 1 it already has changes nothing (log entry 7); inputs, rdata and draws stay through a
reset (log entry 2). -/
def Obligations.HardwareReset : Prop :=
  ∀ s : State,
    step (s.arrives (.rstN false)) =
      .next { State.reset with inputs := s.inputs, rstN := false, rdata := s.rdata, draws := s.draws } ∧
    (s.rstN = false →
      s.irq = false ∧
      (∀ off v, off.toNat % 4 = 0 → step (s.arrives (.write 32 off v)) = .next s ∧
        step (s.arrives (.read 32 off)) = .next s) ∧
      step (s.arrives (.rstN true)) =
        .next { State.reset with inputs := s.inputs, rdata := s.rdata, draws := s.draws }) ∧
    (s.rstN = true → step (s.arrives (.rstN true)) = .next s)

/-- R33, R123: DONE rises at a completion alone, every completion sets it, and it falls only at the acceptance of a
command, at a write of 1 to STATUS bit 1, or at a reset. -/
def Obligations.DoneMovesOnlyAtItsEvents : Prop :=
  ∀ s t : State, step s = .next t →
    (s.TurnIsNext → s.pend ≠ none → t.done = true ∧ t.pend = none) ∧
    (s.done = false → t.done = true → s.TurnIsNext ∧ s.pend ≠ none) ∧
    (s.done = true → t.done = false →
      (∃ c, s.inputs.head? = some (.write 32 0x00C#12 c) ∧ s.pend = none ∧ t.pend = some c) ∨
      (∃ v, v.getLsbD 1 = true ∧ s.inputs.head? = some (.write 32 0x008#12 v)) ∨ s.ResetIsNext)

/-- R33, R142: OVR is sticky. It rises only when a write to a busy-locked register comes while a command is pending, and
falls only at a write of 1 to STATUS bit 2 or at a reset. -/
def Obligations.OverrunMovesOnlyAtItsEvents : Prop :=
  ∀ s t : State, step s = .next t →
    (s.ovr = false → t.ovr = true →
      s.pend ≠ none ∧ ∃ off v, lockedForWrites off = true ∧ s.inputs.head? = some (.write 32 off v)) ∧
    (s.ovr = true → t.ovr = false →
      (∃ v, v.getLsbD 2 = true ∧ s.inputs.head? = some (.write 32 0x008#12 v)) ∨ s.ResetIsNext)

/-- R39, R42: ACC and SESSION change only at the completion of a CLRSESS or an ACCUM or at a reset; no host write reaches
them. -/
def Obligations.SessionChangesByItsCommandsAlone : Prop :=
  ∀ s t : State, step s = .next t → t.acc ≠ s.acc ∨ t.padcnt ≠ s.padcnt ∨ t.slen ≠ s.slen →
    (s.TurnIsNext ∧ ∃ c, s.pend = some c ∧ (decode c = .ok .clrsess ∨ decode c = .ok .accum)) ∨ s.ResetIsNext

/-- The invariant holds at reset (R136, R137, R139). -/
def Obligations.ResetMeetsTheInvariant : Prop := BlockInv State.reset

/-- Every step keeps the invariant: DONE and BUSY never together (R123), ERR never reserved (R117), WORDLIST_INTEGRITY
and nothing else of a bad list (R127), SLEN = 0 exactly when PADCNT = 0 and never 3 (R39), ACC 0 where the session
does not reach (R42): sentences of the spec about its states, most of them marked as derived. The last clause, the
reset state while RST_N = 0, is the model's choice (log entry 7): R136 speaks of the rise. -/
def Obligations.StepKeepsTheInvariant : Prop :=
  ∀ s t : State, BlockInv s → step s = .next t → BlockInv t

/-- R141: taking every input and one turn more, the block has completed whatever was pending. The input list that
decides when a completion comes is the model's (log entry 4). -/
def Obligations.PendingCommandsComplete : Prop :=
  ∀ s : State, s.SafeInputs →
    ∃ t, Host.Core.run Sys2Proof.core (s.inputs.length + 1) s = .next t ∧ t.inputs = [] ∧ t.pend = none

/-! ### The words of the registers -/

/-- R31 to R43: what the word of each register says of the fields of the state, bit by bit: what a host read of it returns
(`ReadReturnsTheRegister`). STATUS.BUSY is 1 exactly when a command is pending (R44); reserved bits are 0. -/
def Obligations.RegisterWordsAreTheFields : Prop :=
  ∀ s : State,
    s.regWord .id = 0x42333958#32 ∧ s.regWord .cmd = 0x00000000#32 ∧
    ((s.regWord .ctrl).getLsbD 0 = s.ie ∧ (s.regWord .ctrl).extractLsb' 1 31 = 0#31) ∧
    (((s.regWord .status).getLsbD 0 = true ↔ s.pend ≠ none) ∧ (s.regWord .status).getLsbD 1 = s.done ∧
      (s.regWord .status).getLsbD 2 = s.ovr ∧ (s.regWord .status).getLsbD 3 = s.fatal ∧
      (s.regWord .status).extractLsb' 4 4 = 0#4 ∧ (s.regWord .status).extractLsb' 8 4 = s.err ∧
      (s.regWord .status).extractLsb' 12 20 = 0#20) ∧
    s.regWord .result = s.result ∧
    ((s.regWord .invmask).extractLsb' 0 24 = s.invmask ∧ (s.regWord .invmask).extractLsb' 24 8 = 0#8) ∧
    ((s.regWord .mnlen).extractLsb' 0 8 = s.mnlen ∧ (s.regWord .mnlen).extractLsb' 8 24 = 0#24) ∧
    ((s.regWord .entcfg).getLsbD 0 = s.elen ∧ (s.regWord .entcfg).extractLsb' 1 31 = 0#31) ∧
    ((s.regWord .session).extractLsb' 0 8 = s.padcnt ∧ (s.regWord .session).extractLsb' 8 2 = s.slen ∧
      (s.regWord .session).extractLsb' 10 22 = 0#22) ∧
    (∀ k : Fin 4, s.regWord (.wbuf k) = s.wbuf[k]) ∧
    (∀ k : Fin 8, s.regWord (.ent k) = s.ent[k] ∧ s.regWord (.ent k) = s.entWord k) ∧
    (∀ k : Fin 8, s.regWord (.acc k) = s.acc[k] ∧ s.regWord (.acc k) = s.accWord k) ∧
    ∀ i : Fin 24, (s.regWord (.mn i)).getLsbD 31 = s.mn[i].v ∧ (s.regWord (.mn i)).extractLsb' 11 20 = 0#20 ∧
      (s.regWord (.mn i)).extractLsb' 0 11 = s.mn[i].idx ∧ s.slot i = s.mn[i]

/-- R40, R41, R42, R55, R58, R85: the strings the commands read, position by position. Byte j of the word buffer is bits
31 − 8(j mod 4) down of WBUF[j div 4]; position 32k + j of the entropy and of the accumulator is bit 31 − j of register k;
position 11i + j of the packed indices is bit 10 − j of slot i. -/
def Obligations.StringsAreTheRegisterBits : Prop :=
  ∀ s : State,
    (s.wbufBytes.length = 16 ∧ ∀ (k : Fin 4) (j : Nat), j < 4 →
      byteAt s.wbufBytes (4 * k.val + j) = (s.regWord (.wbuf k)).extractLsb' (24 - 8 * j) 8) ∧
    (∀ z : Size, (s.entbits z).length = z.entW ∧ (s.accbits z).length = z.entW ∧
      ∀ (k : Fin 8) (j : Nat), k.val < z.entW / 32 → j < 32 →
        (s.entbits z)[32 * k.val + j]? = some ((s.regWord (.ent k)).getLsbD (31 - j)) ∧
        (s.accbits z)[32 * k.val + j]? = some ((s.regWord (.acc k)).getLsbD (31 - j))) ∧
    ∀ n : Nat, n ≤ 24 → (s.pack n).length = 11 * n ∧
      ∀ (i : Fin 24) (j : Nat), i.val < n → j < 11 →
        (s.pack n)[11 * i.val + j]? = some ((s.regWord (.mn i)).getLsbD (10 - j))
end

