-- ==== Sys2Proof/Laws/Bits.lean ====
section
/-! SUPPORT. Lemmas of the bit-string and byte-string conversions: lengths, the two directions of `bin` and `val`, slices
of a concatenation, registers as bit strings. -/

namespace Sys2Proof.Machine

@[simp] theorem bin_zero (v : Nat) : bin 0 v = [] := rfl

@[simp] theorem bin_succ (n v : Nat) : bin (n + 1) v = v.testBit n :: bin n v := rfl

@[simp] theorem val_nil : val [] = 0 := rfl

@[simp] theorem val_cons (b : Bool) (s : Bits) : val (b :: s) = b.toNat * 2 ^ s.length + val s := rfl

@[simp] theorem length_bin (n v : Nat) : (bin n v).length = n := by
  induction n with
  | zero => rfl
  | succ n ih => simp [ih]

theorem val_lt (s : Bits) : val s < 2 ^ s.length := by
  induction s with
  | nil => simp
  | cons b s ih => cases b <;> simp [Nat.pow_succ] <;> omega

/-- `val` of a concatenation. -/
theorem val_append (a b : Bits) : val (a ++ b) = val a * 2 ^ b.length + val b := by
  induction a with
  | nil => simp
  | cons x a ih => simp [ih, Nat.pow_add]; ring

/-- `bin_n(v)` depends on v modulo 2^n only, and `val` takes it back. -/
theorem val_bin (n v : Nat) : val (bin n v) = v % 2 ^ n := by
  induction n with
  | zero => simp [Nat.mod_one]
  | succ n ih =>
    rw [bin_succ, val_cons, ih, length_bin, Nat.mod_pow_succ, Nat.toNat_testBit, Nat.mul_comm]
    omega

/-- Two bit strings of one length with one value are equal. -/
theorem val_inj {a b : Bits} (hl : a.length = b.length) (hv : val a = val b) : a = b := by
  induction a generalizing b with
  | nil => cases b with
    | nil => rfl
    | cons _ _ => simp at hl
  | cons x a ih =>
    cases b with
    | nil => simp at hl
    | cons y b =>
      simp only [List.length_cons, Nat.add_right_cancel_iff] at hl
      have ha := val_lt a
      have hb := val_lt b
      rw [val_cons, val_cons, hl] at hv
      rw [hl] at ha
      cases x <;> cases y <;> simp only [Bool.toNat_false, Bool.toNat_true, Nat.zero_mul, Nat.one_mul] at hv
      · rw [ih hl (by omega)]
      · omega
      · omega
      · rw [ih hl (by omega)]

theorem bin_val (s : Bits) : bin s.length (val s) = s :=
  val_inj (by simp) (by rw [val_bin, Nat.mod_eq_of_lt (val_lt s)])

/-- `bin_n(val(s)) = s` for a string of n bits. -/
theorem bin_val_of_length {s : Bits} {n : Nat} (h : s.length = n) : bin n (val s) = s := h ▸ bin_val s

theorem bin_inj {n v w : Nat} (hv : v < 2 ^ n) (hw : w < 2 ^ n) (h : bin n v = bin n w) : v = w := by
  have := congrArg val h
  rwa [val_bin, val_bin, Nat.mod_eq_of_lt hv, Nat.mod_eq_of_lt hw] at this

theorem bin_mod (n v : Nat) : bin n (v % 2 ^ n) = bin n v := val_inj (by simp) (by simp [val_bin])

/-- The string of m + n bits is the string of its top m bits followed by that of its low n bits. -/
theorem bin_add (m n v : Nat) : bin (m + n) v = bin m (v / 2 ^ n) ++ bin n v := by
  apply val_inj (by simp)
  rw [val_append, val_bin, val_bin, val_bin, length_bin, Nat.pow_add, Nat.mul_comm (2 ^ m), Nat.mod_mul]
  ring

@[simp] theorem length_zeros (n : Nat) : (zeros n).length = n := by simp [zeros]

theorem length_slice (s : Bits) (i n : Nat) : (slice s i n).length = min n (s.length - i) := by
  simp [slice]

@[simp] theorem slice_zero_append {a b : Bits} {n : Nat} (h : a.length = n) : slice (a ++ b) 0 n = a := by
  simp [slice, ← h]

@[simp] theorem slice_append_right {a b : Bits} {n m : Nat} (h : a.length = n) (hb : b.length = m) :
    slice (a ++ b) n m = b := by
  simp [slice, ← h, ← hb]

/-- A string is its first n bits followed by the rest. -/
theorem slice_append_slice {s : Bits} {n m : Nat} (h : s.length = n + m) : slice s 0 n ++ slice s n m = s := by
  simp only [slice, List.drop_zero]
  rw [List.take_of_length_le (l := s.drop n) (by simp [h]), List.take_append_drop]

@[simp] theorem length_xorBits (a b : Bits) : (xorBits a b).length = min a.length b.length := by
  simp [xorBits]

@[simp] theorem length_wordBits (w : Word) : (wordBits w).length = 32 := by simp [wordBits]

@[simp] theorem bitsWord_wordBits (w : Word) : bitsWord (wordBits w) = w := by
  simp only [bitsWord, wordBits, val_bin, Nat.mod_eq_of_lt w.isLt, BitVec.ofNat_toNat, BitVec.setWidth_eq]

theorem wordBits_bitsWord {s : Bits} (h : s.length = 32) : wordBits (bitsWord s) = s := by
  have hlt := val_lt s
  rw [h] at hlt
  rw [wordBits, bitsWord, BitVec.toNat_ofNat, Nat.mod_eq_of_lt hlt, bin_val_of_length h]

@[simp] theorem regBits_nil : regBits [] = [] := rfl

@[simp] theorem regBits_cons (w : Word) (ws : List Word) : regBits (w :: ws) = wordBits w ++ regBits ws := rfl

@[simp] theorem length_regBits (ws : List Word) : (regBits ws).length = 32 * ws.length := by
  induction ws with
  | nil => rfl
  | cons w ws ih => simp [ih]; omega

@[simp] theorem length_fileBits (rs : Vector Word 8) (z : Size) : (fileBits rs z).length = z.entW := by
  cases z <;> simp [fileBits, Size.entW]

@[simp] theorem length_wordBytes (w : Word) : (wordBytes w).length = 4 := rfl

@[simp] theorem length_bitsBytes (e : Bits) : (bitsBytes e).length = e.length / 8 := by simp [bitsBytes]

@[simp] theorem length_bytesBits (bs : List Byte) : (bytesBits bs).length = 8 * bs.length := by
  induction bs with
  | nil => rfl
  | cons b bs ih => simp only [bytesBits, List.flatMap_cons, List.length_append, length_bin] at *; simp; omega

@[simp] theorem length_sha256 (m : List Byte) : (sha256 m).length = 32 := by
  simp [sha256, ShaVars.words]

/-- CHK(e, c) has c bits (R91). -/
theorem length_chk (e : Bits) {c : Nat} (h : c ≤ 256) : (chk e c).length = c := by
  simp [chk, length_slice]; omega

@[simp] theorem length_chk_csW (e : Bits) (z : Size) : (chk e z.csW).length = z.csW :=
  length_chk e (by cases z <;> decide)

/-- A group of indices packed one after another has 11 bits for each. -/
theorem length_flatMap_bin (n : Nat) (f : Nat → Nat) (l : List Nat) :
    (l.flatMap fun i => bin n (f i)).length = n * l.length := by
  induction l with
  | nil => rfl
  | cons i l ih => simp [ih]; ring

@[simp] theorem length_pack (s : State) (k : Nat) : (s.pack k).length = 11 * k := by
  simp [State.pack, IDXW, Nat.mul_comm]

/-- `pack(k + 1)` is `pack(k)` and the index of slot k (R85). -/
theorem pack_succ (s : State) (k : Nat) : s.pack (k + 1) = s.pack k ++ bin IDXW (s.slot k).idx.toNat := by
  simp [State.pack, List.range_succ]

@[simp] theorem length_split (f : Bits) : (split f).length = f.length / 11 := by simp [split, IDXW]

end Sys2Proof.Machine
end

