-- ==== Sys2Proof/Laws/Fields.lean ====
section
/-! SUPPORT. The two fields of a concatenation of bit vectors. -/

namespace Sys2Proof

/-- The low field of a concatenation is its right part. -/
theorem extractLsb'_append_right {n m : Nat} (a : BitVec n) (b : BitVec m) : (a ++ b).extractLsb' 0 m = b := by
  ext k hk
  rw [BitVec.getElem_extractLsb', Nat.zero_add, BitVec.getLsbD_append, if_pos hk, BitVec.getLsbD_eq_getElem hk]

/-- The high field of a concatenation is its left part. -/
theorem extractLsb'_append_left {n m : Nat} (a : BitVec n) (b : BitVec m) : (a ++ b).extractLsb' m n = a := by
  ext k hk
  rw [BitVec.getElem_extractLsb', BitVec.getLsbD_append, if_neg (by omega), Nat.add_sub_cancel_left,
    BitVec.getLsbD_eq_getElem hk]

end Sys2Proof
end

