-- ==== Sys2Proof/Laws/State.lean ====
section
/-! SUPPORT. One lemma per field of `State` for each named update of it, all true by rfl, so that no later proof unfolds a
record update; and the reset value of each field. -/

namespace Sys2Proof.Machine

@[simp] theorem reset_inputs : State.reset.inputs = ([]) := rfl
@[simp] theorem reset_rstN : State.reset.rstN = (true) := rfl
@[simp] theorem reset_rdata : State.reset.rdata = (none) := rfl
@[simp] theorem reset_draws : State.reset.draws = (0) := rfl
@[simp] theorem reset_ie : State.reset.ie = (false) := rfl
@[simp] theorem reset_done : State.reset.done = (false) := rfl
@[simp] theorem reset_ovr : State.reset.ovr = (false) := rfl
@[simp] theorem reset_fatal : State.reset.fatal = (!wordlistOk Config.WORDLIST) := rfl
@[simp] theorem reset_err : State.reset.err = (0#4) := rfl
@[simp] theorem reset_result : State.reset.result = (0#32) := rfl
@[simp] theorem reset_invmask : State.reset.invmask = (0#24) := rfl
@[simp] theorem reset_mnlen : State.reset.mnlen = (0#8) := rfl
@[simp] theorem reset_elen : State.reset.elen = (false) := rfl
@[simp] theorem reset_padcnt : State.reset.padcnt = (0#8) := rfl
@[simp] theorem reset_slen : State.reset.slen = (0#2) := rfl
@[simp] theorem reset_wbuf : State.reset.wbuf = (Vector.replicate 4 0#32) := rfl
@[simp] theorem reset_ent : State.reset.ent = (Vector.replicate 8 0#32) := rfl
@[simp] theorem reset_acc : State.reset.acc = (Vector.replicate 8 0#32) := rfl
@[simp] theorem reset_mn : State.reset.mn = (Vector.replicate 24 Slot.empty) := rfl
@[simp] theorem reset_pend : State.reset.pend = (none) := rfl

@[simp] theorem accept_inputs (s : State) (c : Word) : (accept s c).inputs = s.inputs := rfl
@[simp] theorem accept_rstN (s : State) (c : Word) : (accept s c).rstN = s.rstN := rfl
@[simp] theorem accept_rdata (s : State) (c : Word) : (accept s c).rdata = s.rdata := rfl
@[simp] theorem accept_draws (s : State) (c : Word) : (accept s c).draws = s.draws := rfl
@[simp] theorem accept_ie (s : State) (c : Word) : (accept s c).ie = s.ie := rfl
@[simp] theorem accept_done (s : State) (c : Word) : (accept s c).done = false := rfl
@[simp] theorem accept_ovr (s : State) (c : Word) : (accept s c).ovr = s.ovr := rfl
@[simp] theorem accept_fatal (s : State) (c : Word) : (accept s c).fatal = s.fatal := rfl
@[simp] theorem accept_err (s : State) (c : Word) : (accept s c).err = 0#4 := rfl
@[simp] theorem accept_result (s : State) (c : Word) : (accept s c).result = s.result := rfl
@[simp] theorem accept_invmask (s : State) (c : Word) : (accept s c).invmask = s.invmask := rfl
@[simp] theorem accept_mnlen (s : State) (c : Word) : (accept s c).mnlen = s.mnlen := rfl
@[simp] theorem accept_elen (s : State) (c : Word) : (accept s c).elen = s.elen := rfl
@[simp] theorem accept_padcnt (s : State) (c : Word) : (accept s c).padcnt = s.padcnt := rfl
@[simp] theorem accept_slen (s : State) (c : Word) : (accept s c).slen = s.slen := rfl
@[simp] theorem accept_wbuf (s : State) (c : Word) : (accept s c).wbuf = s.wbuf := rfl
@[simp] theorem accept_ent (s : State) (c : Word) : (accept s c).ent = s.ent := rfl
@[simp] theorem accept_acc (s : State) (c : Word) : (accept s c).acc = s.acc := rfl
@[simp] theorem accept_mn (s : State) (c : Word) : (accept s c).mn = s.mn := rfl
@[simp] theorem accept_pend (s : State) (c : Word) : (accept s c).pend = some c := rfl

@[simp] theorem commit_inputs (o : Completion) : (commit o).inputs = o.writes.inputs := rfl
@[simp] theorem commit_rstN (o : Completion) : (commit o).rstN = o.writes.rstN := rfl
@[simp] theorem commit_rdata (o : Completion) : (commit o).rdata = o.writes.rdata := rfl
@[simp] theorem commit_draws (o : Completion) : (commit o).draws = o.writes.draws := rfl
@[simp] theorem commit_ie (o : Completion) : (commit o).ie = o.writes.ie := rfl
@[simp] theorem commit_done (o : Completion) : (commit o).done = true := rfl
@[simp] theorem commit_ovr (o : Completion) : (commit o).ovr = o.writes.ovr := rfl
@[simp] theorem commit_fatal (o : Completion) : (commit o).fatal = o.writes.fatal := rfl
@[simp] theorem commit_err (o : Completion) : (commit o).err = o.code.bits := rfl
@[simp] theorem commit_result (o : Completion) : (commit o).result = o.writes.result := rfl
@[simp] theorem commit_invmask (o : Completion) : (commit o).invmask = o.writes.invmask := rfl
@[simp] theorem commit_mnlen (o : Completion) : (commit o).mnlen = o.writes.mnlen := rfl
@[simp] theorem commit_elen (o : Completion) : (commit o).elen = o.writes.elen := rfl
@[simp] theorem commit_padcnt (o : Completion) : (commit o).padcnt = o.writes.padcnt := rfl
@[simp] theorem commit_slen (o : Completion) : (commit o).slen = o.writes.slen := rfl
@[simp] theorem commit_wbuf (o : Completion) : (commit o).wbuf = o.writes.wbuf := rfl
@[simp] theorem commit_ent (o : Completion) : (commit o).ent = o.writes.ent := rfl
@[simp] theorem commit_acc (o : Completion) : (commit o).acc = o.writes.acc := rfl
@[simp] theorem commit_mn (o : Completion) : (commit o).mn = o.writes.mn := rfl
@[simp] theorem commit_pend (o : Completion) : (commit o).pend = none := rfl

@[simp] theorem completedAs_inputs (s : State) (e : BitVec 4) : (s.completedAs e).inputs = s.inputs := rfl
@[simp] theorem completedAs_rstN (s : State) (e : BitVec 4) : (s.completedAs e).rstN = s.rstN := rfl
@[simp] theorem completedAs_rdata (s : State) (e : BitVec 4) : (s.completedAs e).rdata = s.rdata := rfl
@[simp] theorem completedAs_draws (s : State) (e : BitVec 4) : (s.completedAs e).draws = s.draws := rfl
@[simp] theorem completedAs_ie (s : State) (e : BitVec 4) : (s.completedAs e).ie = s.ie := rfl
@[simp] theorem completedAs_done (s : State) (e : BitVec 4) : (s.completedAs e).done = true := rfl
@[simp] theorem completedAs_ovr (s : State) (e : BitVec 4) : (s.completedAs e).ovr = s.ovr := rfl
@[simp] theorem completedAs_fatal (s : State) (e : BitVec 4) : (s.completedAs e).fatal = s.fatal := rfl
@[simp] theorem completedAs_err (s : State) (e : BitVec 4) : (s.completedAs e).err = e := rfl
@[simp] theorem completedAs_result (s : State) (e : BitVec 4) : (s.completedAs e).result = s.result := rfl
@[simp] theorem completedAs_invmask (s : State) (e : BitVec 4) : (s.completedAs e).invmask = s.invmask := rfl
@[simp] theorem completedAs_mnlen (s : State) (e : BitVec 4) : (s.completedAs e).mnlen = s.mnlen := rfl
@[simp] theorem completedAs_elen (s : State) (e : BitVec 4) : (s.completedAs e).elen = s.elen := rfl
@[simp] theorem completedAs_padcnt (s : State) (e : BitVec 4) : (s.completedAs e).padcnt = s.padcnt := rfl
@[simp] theorem completedAs_slen (s : State) (e : BitVec 4) : (s.completedAs e).slen = s.slen := rfl
@[simp] theorem completedAs_wbuf (s : State) (e : BitVec 4) : (s.completedAs e).wbuf = s.wbuf := rfl
@[simp] theorem completedAs_ent (s : State) (e : BitVec 4) : (s.completedAs e).ent = s.ent := rfl
@[simp] theorem completedAs_acc (s : State) (e : BitVec 4) : (s.completedAs e).acc = s.acc := rfl
@[simp] theorem completedAs_mn (s : State) (e : BitVec 4) : (s.completedAs e).mn = s.mn := rfl
@[simp] theorem completedAs_pend (s : State) (e : BitVec 4) : (s.completedAs e).pend = none := rfl

@[simp] theorem statusWrite_inputs (s : State) (v : Word) : (s.statusWrite v).inputs = s.inputs := rfl
@[simp] theorem statusWrite_rstN (s : State) (v : Word) : (s.statusWrite v).rstN = s.rstN := rfl
@[simp] theorem statusWrite_rdata (s : State) (v : Word) : (s.statusWrite v).rdata = s.rdata := rfl
@[simp] theorem statusWrite_draws (s : State) (v : Word) : (s.statusWrite v).draws = s.draws := rfl
@[simp] theorem statusWrite_ie (s : State) (v : Word) : (s.statusWrite v).ie = s.ie := rfl
@[simp] theorem statusWrite_done (s : State) (v : Word) : (s.statusWrite v).done = (s.done && !v.getLsbD 1) := rfl
@[simp] theorem statusWrite_ovr (s : State) (v : Word) : (s.statusWrite v).ovr = (s.ovr && !v.getLsbD 2) := rfl
@[simp] theorem statusWrite_fatal (s : State) (v : Word) : (s.statusWrite v).fatal = s.fatal := rfl
@[simp] theorem statusWrite_err (s : State) (v : Word) : (s.statusWrite v).err = s.err := rfl
@[simp] theorem statusWrite_result (s : State) (v : Word) : (s.statusWrite v).result = s.result := rfl
@[simp] theorem statusWrite_invmask (s : State) (v : Word) : (s.statusWrite v).invmask = s.invmask := rfl
@[simp] theorem statusWrite_mnlen (s : State) (v : Word) : (s.statusWrite v).mnlen = s.mnlen := rfl
@[simp] theorem statusWrite_elen (s : State) (v : Word) : (s.statusWrite v).elen = s.elen := rfl
@[simp] theorem statusWrite_padcnt (s : State) (v : Word) : (s.statusWrite v).padcnt = s.padcnt := rfl
@[simp] theorem statusWrite_slen (s : State) (v : Word) : (s.statusWrite v).slen = s.slen := rfl
@[simp] theorem statusWrite_wbuf (s : State) (v : Word) : (s.statusWrite v).wbuf = s.wbuf := rfl
@[simp] theorem statusWrite_ent (s : State) (v : Word) : (s.statusWrite v).ent = s.ent := rfl
@[simp] theorem statusWrite_acc (s : State) (v : Word) : (s.statusWrite v).acc = s.acc := rfl
@[simp] theorem statusWrite_mn (s : State) (v : Word) : (s.statusWrite v).mn = s.mn := rfl
@[simp] theorem statusWrite_pend (s : State) (v : Word) : (s.statusWrite v).pend = s.pend := rfl

@[simp] theorem resetState_inputs (s : State) : (resetState s).inputs = s.inputs := rfl
@[simp] theorem resetState_rstN (s : State) : (resetState s).rstN = s.rstN := rfl
@[simp] theorem resetState_rdata (s : State) : (resetState s).rdata = s.rdata := rfl
@[simp] theorem resetState_draws (s : State) : (resetState s).draws = s.draws := rfl
@[simp] theorem resetState_ie (s : State) : (resetState s).ie = State.reset.ie := rfl
@[simp] theorem resetState_done (s : State) : (resetState s).done = State.reset.done := rfl
@[simp] theorem resetState_ovr (s : State) : (resetState s).ovr = State.reset.ovr := rfl
@[simp] theorem resetState_fatal (s : State) : (resetState s).fatal = State.reset.fatal := rfl
@[simp] theorem resetState_err (s : State) : (resetState s).err = State.reset.err := rfl
@[simp] theorem resetState_result (s : State) : (resetState s).result = State.reset.result := rfl
@[simp] theorem resetState_invmask (s : State) : (resetState s).invmask = State.reset.invmask := rfl
@[simp] theorem resetState_mnlen (s : State) : (resetState s).mnlen = State.reset.mnlen := rfl
@[simp] theorem resetState_elen (s : State) : (resetState s).elen = State.reset.elen := rfl
@[simp] theorem resetState_padcnt (s : State) : (resetState s).padcnt = State.reset.padcnt := rfl
@[simp] theorem resetState_slen (s : State) : (resetState s).slen = State.reset.slen := rfl
@[simp] theorem resetState_wbuf (s : State) : (resetState s).wbuf = State.reset.wbuf := rfl
@[simp] theorem resetState_ent (s : State) : (resetState s).ent = State.reset.ent := rfl
@[simp] theorem resetState_acc (s : State) : (resetState s).acc = State.reset.acc := rfl
@[simp] theorem resetState_mn (s : State) : (resetState s).mn = State.reset.mn := rfl
@[simp] theorem resetState_pend (s : State) : (resetState s).pend = State.reset.pend := rfl

@[simp] theorem afterTurn_inputs (s : State) : s.afterTurn.inputs = s.inputs.tail := rfl
@[simp] theorem afterTurn_rstN (s : State) : s.afterTurn.rstN = s.rstN := rfl
@[simp] theorem afterTurn_rdata (s : State) : s.afterTurn.rdata = s.rdata := rfl
@[simp] theorem afterTurn_draws (s : State) : s.afterTurn.draws = s.draws := rfl
@[simp] theorem afterTurn_ie (s : State) : s.afterTurn.ie = s.ie := rfl
@[simp] theorem afterTurn_done (s : State) : s.afterTurn.done = s.done := rfl
@[simp] theorem afterTurn_ovr (s : State) : s.afterTurn.ovr = s.ovr := rfl
@[simp] theorem afterTurn_fatal (s : State) : s.afterTurn.fatal = s.fatal := rfl
@[simp] theorem afterTurn_err (s : State) : s.afterTurn.err = s.err := rfl
@[simp] theorem afterTurn_result (s : State) : s.afterTurn.result = s.result := rfl
@[simp] theorem afterTurn_invmask (s : State) : s.afterTurn.invmask = s.invmask := rfl
@[simp] theorem afterTurn_mnlen (s : State) : s.afterTurn.mnlen = s.mnlen := rfl
@[simp] theorem afterTurn_elen (s : State) : s.afterTurn.elen = s.elen := rfl
@[simp] theorem afterTurn_padcnt (s : State) : s.afterTurn.padcnt = s.padcnt := rfl
@[simp] theorem afterTurn_slen (s : State) : s.afterTurn.slen = s.slen := rfl
@[simp] theorem afterTurn_wbuf (s : State) : s.afterTurn.wbuf = s.wbuf := rfl
@[simp] theorem afterTurn_ent (s : State) : s.afterTurn.ent = s.ent := rfl
@[simp] theorem afterTurn_acc (s : State) : s.afterTurn.acc = s.acc := rfl
@[simp] theorem afterTurn_mn (s : State) : s.afterTurn.mn = s.mn := rfl
@[simp] theorem afterTurn_pend (s : State) : s.afterTurn.pend = s.pend := rfl

@[simp] theorem withPending_inputs (s : State) (c : Word) : (s.withPending c).inputs = sequencerFirst s.inputs := rfl
@[simp] theorem withPending_rstN (s : State) (c : Word) : (s.withPending c).rstN = s.rstN := rfl
@[simp] theorem withPending_rdata (s : State) (c : Word) : (s.withPending c).rdata = s.rdata := rfl
@[simp] theorem withPending_draws (s : State) (c : Word) : (s.withPending c).draws = s.draws := rfl
@[simp] theorem withPending_ie (s : State) (c : Word) : (s.withPending c).ie = s.ie := rfl
@[simp] theorem withPending_done (s : State) (c : Word) : (s.withPending c).done = s.done := rfl
@[simp] theorem withPending_ovr (s : State) (c : Word) : (s.withPending c).ovr = s.ovr := rfl
@[simp] theorem withPending_fatal (s : State) (c : Word) : (s.withPending c).fatal = s.fatal := rfl
@[simp] theorem withPending_err (s : State) (c : Word) : (s.withPending c).err = s.err := rfl
@[simp] theorem withPending_result (s : State) (c : Word) : (s.withPending c).result = s.result := rfl
@[simp] theorem withPending_invmask (s : State) (c : Word) : (s.withPending c).invmask = s.invmask := rfl
@[simp] theorem withPending_mnlen (s : State) (c : Word) : (s.withPending c).mnlen = s.mnlen := rfl
@[simp] theorem withPending_elen (s : State) (c : Word) : (s.withPending c).elen = s.elen := rfl
@[simp] theorem withPending_padcnt (s : State) (c : Word) : (s.withPending c).padcnt = s.padcnt := rfl
@[simp] theorem withPending_slen (s : State) (c : Word) : (s.withPending c).slen = s.slen := rfl
@[simp] theorem withPending_wbuf (s : State) (c : Word) : (s.withPending c).wbuf = s.wbuf := rfl
@[simp] theorem withPending_ent (s : State) (c : Word) : (s.withPending c).ent = s.ent := rfl
@[simp] theorem withPending_acc (s : State) (c : Word) : (s.withPending c).acc = s.acc := rfl
@[simp] theorem withPending_mn (s : State) (c : Word) : (s.withPending c).mn = s.mn := rfl
@[simp] theorem withPending_pend (s : State) (c : Word) : (s.withPending c).pend = some c := rfl

@[simp] theorem arrives_inputs (s : State) (e : Event) : (s.arrives e).inputs = e :: s.inputs := rfl
@[simp] theorem arrives_rstN (s : State) (e : Event) : (s.arrives e).rstN = s.rstN := rfl
@[simp] theorem arrives_rdata (s : State) (e : Event) : (s.arrives e).rdata = s.rdata := rfl
@[simp] theorem arrives_draws (s : State) (e : Event) : (s.arrives e).draws = s.draws := rfl
@[simp] theorem arrives_ie (s : State) (e : Event) : (s.arrives e).ie = s.ie := rfl
@[simp] theorem arrives_done (s : State) (e : Event) : (s.arrives e).done = s.done := rfl
@[simp] theorem arrives_ovr (s : State) (e : Event) : (s.arrives e).ovr = s.ovr := rfl
@[simp] theorem arrives_fatal (s : State) (e : Event) : (s.arrives e).fatal = s.fatal := rfl
@[simp] theorem arrives_err (s : State) (e : Event) : (s.arrives e).err = s.err := rfl
@[simp] theorem arrives_result (s : State) (e : Event) : (s.arrives e).result = s.result := rfl
@[simp] theorem arrives_invmask (s : State) (e : Event) : (s.arrives e).invmask = s.invmask := rfl
@[simp] theorem arrives_mnlen (s : State) (e : Event) : (s.arrives e).mnlen = s.mnlen := rfl
@[simp] theorem arrives_elen (s : State) (e : Event) : (s.arrives e).elen = s.elen := rfl
@[simp] theorem arrives_padcnt (s : State) (e : Event) : (s.arrives e).padcnt = s.padcnt := rfl
@[simp] theorem arrives_slen (s : State) (e : Event) : (s.arrives e).slen = s.slen := rfl
@[simp] theorem arrives_wbuf (s : State) (e : Event) : (s.arrives e).wbuf = s.wbuf := rfl
@[simp] theorem arrives_ent (s : State) (e : Event) : (s.arrives e).ent = s.ent := rfl
@[simp] theorem arrives_acc (s : State) (e : Event) : (s.arrives e).acc = s.acc := rfl
@[simp] theorem arrives_mn (s : State) (e : Event) : (s.arrives e).mn = s.mn := rfl
@[simp] theorem arrives_pend (s : State) (e : Event) : (s.arrives e).pend = s.pend := rfl

@[simp] theorem putEnt_inputs (s : State) (e : Bits) : (s.putEnt e).inputs = s.inputs := rfl
@[simp] theorem putEnt_rstN (s : State) (e : Bits) : (s.putEnt e).rstN = s.rstN := rfl
@[simp] theorem putEnt_rdata (s : State) (e : Bits) : (s.putEnt e).rdata = s.rdata := rfl
@[simp] theorem putEnt_draws (s : State) (e : Bits) : (s.putEnt e).draws = s.draws := rfl
@[simp] theorem putEnt_ie (s : State) (e : Bits) : (s.putEnt e).ie = s.ie := rfl
@[simp] theorem putEnt_done (s : State) (e : Bits) : (s.putEnt e).done = s.done := rfl
@[simp] theorem putEnt_ovr (s : State) (e : Bits) : (s.putEnt e).ovr = s.ovr := rfl
@[simp] theorem putEnt_fatal (s : State) (e : Bits) : (s.putEnt e).fatal = s.fatal := rfl
@[simp] theorem putEnt_err (s : State) (e : Bits) : (s.putEnt e).err = s.err := rfl
@[simp] theorem putEnt_result (s : State) (e : Bits) : (s.putEnt e).result = s.result := rfl
@[simp] theorem putEnt_invmask (s : State) (e : Bits) : (s.putEnt e).invmask = s.invmask := rfl
@[simp] theorem putEnt_mnlen (s : State) (e : Bits) : (s.putEnt e).mnlen = s.mnlen := rfl
@[simp] theorem putEnt_elen (s : State) (e : Bits) : (s.putEnt e).elen = s.elen := rfl
@[simp] theorem putEnt_padcnt (s : State) (e : Bits) : (s.putEnt e).padcnt = s.padcnt := rfl
@[simp] theorem putEnt_slen (s : State) (e : Bits) : (s.putEnt e).slen = s.slen := rfl
@[simp] theorem putEnt_wbuf (s : State) (e : Bits) : (s.putEnt e).wbuf = s.wbuf := rfl
@[simp] theorem putEnt_ent (s : State) (e : Bits) : (s.putEnt e).ent = bitsFile e := rfl
@[simp] theorem putEnt_acc (s : State) (e : Bits) : (s.putEnt e).acc = s.acc := rfl
@[simp] theorem putEnt_mn (s : State) (e : Bits) : (s.putEnt e).mn = s.mn := rfl
@[simp] theorem putEnt_pend (s : State) (e : Bits) : (s.putEnt e).pend = s.pend := rfl

@[simp] theorem putSlot_inputs (s : State) (i : Nat) (x : Slot) : (s.putSlot i x).inputs = s.inputs := rfl
@[simp] theorem putSlot_rstN (s : State) (i : Nat) (x : Slot) : (s.putSlot i x).rstN = s.rstN := rfl
@[simp] theorem putSlot_rdata (s : State) (i : Nat) (x : Slot) : (s.putSlot i x).rdata = s.rdata := rfl
@[simp] theorem putSlot_draws (s : State) (i : Nat) (x : Slot) : (s.putSlot i x).draws = s.draws := rfl
@[simp] theorem putSlot_ie (s : State) (i : Nat) (x : Slot) : (s.putSlot i x).ie = s.ie := rfl
@[simp] theorem putSlot_done (s : State) (i : Nat) (x : Slot) : (s.putSlot i x).done = s.done := rfl
@[simp] theorem putSlot_ovr (s : State) (i : Nat) (x : Slot) : (s.putSlot i x).ovr = s.ovr := rfl
@[simp] theorem putSlot_fatal (s : State) (i : Nat) (x : Slot) : (s.putSlot i x).fatal = s.fatal := rfl
@[simp] theorem putSlot_err (s : State) (i : Nat) (x : Slot) : (s.putSlot i x).err = s.err := rfl
@[simp] theorem putSlot_result (s : State) (i : Nat) (x : Slot) : (s.putSlot i x).result = s.result := rfl
@[simp] theorem putSlot_invmask (s : State) (i : Nat) (x : Slot) : (s.putSlot i x).invmask = s.invmask := rfl
@[simp] theorem putSlot_mnlen (s : State) (i : Nat) (x : Slot) : (s.putSlot i x).mnlen = s.mnlen := rfl
@[simp] theorem putSlot_elen (s : State) (i : Nat) (x : Slot) : (s.putSlot i x).elen = s.elen := rfl
@[simp] theorem putSlot_padcnt (s : State) (i : Nat) (x : Slot) : (s.putSlot i x).padcnt = s.padcnt := rfl
@[simp] theorem putSlot_slen (s : State) (i : Nat) (x : Slot) : (s.putSlot i x).slen = s.slen := rfl
@[simp] theorem putSlot_wbuf (s : State) (i : Nat) (x : Slot) : (s.putSlot i x).wbuf = s.wbuf := rfl
@[simp] theorem putSlot_ent (s : State) (i : Nat) (x : Slot) : (s.putSlot i x).ent = s.ent := rfl
@[simp] theorem putSlot_acc (s : State) (i : Nat) (x : Slot) : (s.putSlot i x).acc = s.acc := rfl
@[simp] theorem putSlot_mn (s : State) (i : Nat) (x : Slot) : (s.putSlot i x).mn = s.mn.setIfInBounds i x := rfl
@[simp] theorem putSlot_pend (s : State) (i : Nat) (x : Slot) : (s.putSlot i x).pend = s.pend := rfl

@[simp] theorem putWbuf_inputs (s : State) (w : List Byte) : (s.putWbuf w).inputs = s.inputs := rfl
@[simp] theorem putWbuf_rstN (s : State) (w : List Byte) : (s.putWbuf w).rstN = s.rstN := rfl
@[simp] theorem putWbuf_rdata (s : State) (w : List Byte) : (s.putWbuf w).rdata = s.rdata := rfl
@[simp] theorem putWbuf_draws (s : State) (w : List Byte) : (s.putWbuf w).draws = s.draws := rfl
@[simp] theorem putWbuf_ie (s : State) (w : List Byte) : (s.putWbuf w).ie = s.ie := rfl
@[simp] theorem putWbuf_done (s : State) (w : List Byte) : (s.putWbuf w).done = s.done := rfl
@[simp] theorem putWbuf_ovr (s : State) (w : List Byte) : (s.putWbuf w).ovr = s.ovr := rfl
@[simp] theorem putWbuf_fatal (s : State) (w : List Byte) : (s.putWbuf w).fatal = s.fatal := rfl
@[simp] theorem putWbuf_err (s : State) (w : List Byte) : (s.putWbuf w).err = s.err := rfl
@[simp] theorem putWbuf_result (s : State) (w : List Byte) : (s.putWbuf w).result = s.result := rfl
@[simp] theorem putWbuf_invmask (s : State) (w : List Byte) : (s.putWbuf w).invmask = s.invmask := rfl
@[simp] theorem putWbuf_mnlen (s : State) (w : List Byte) : (s.putWbuf w).mnlen = s.mnlen := rfl
@[simp] theorem putWbuf_elen (s : State) (w : List Byte) : (s.putWbuf w).elen = s.elen := rfl
@[simp] theorem putWbuf_padcnt (s : State) (w : List Byte) : (s.putWbuf w).padcnt = s.padcnt := rfl
@[simp] theorem putWbuf_slen (s : State) (w : List Byte) : (s.putWbuf w).slen = s.slen := rfl
@[simp] theorem putWbuf_wbuf (s : State) (w : List Byte) : (s.putWbuf w).wbuf = Vector.ofFn fun k => bytesWord w k.val := rfl
@[simp] theorem putWbuf_ent (s : State) (w : List Byte) : (s.putWbuf w).ent = s.ent := rfl
@[simp] theorem putWbuf_acc (s : State) (w : List Byte) : (s.putWbuf w).acc = s.acc := rfl
@[simp] theorem putWbuf_mn (s : State) (w : List Byte) : (s.putWbuf w).mn = s.mn := rfl
@[simp] theorem putWbuf_pend (s : State) (w : List Byte) : (s.putWbuf w).pend = s.pend := rfl

@[simp] theorem emit_inputs (s : State) (z : Size) (e : Bits) : (emit s z e).inputs = s.inputs := rfl
@[simp] theorem emit_rstN (s : State) (z : Size) (e : Bits) : (emit s z e).rstN = s.rstN := rfl
@[simp] theorem emit_rdata (s : State) (z : Size) (e : Bits) : (emit s z e).rdata = s.rdata := rfl
@[simp] theorem emit_draws (s : State) (z : Size) (e : Bits) : (emit s z e).draws = s.draws := rfl
@[simp] theorem emit_ie (s : State) (z : Size) (e : Bits) : (emit s z e).ie = s.ie := rfl
@[simp] theorem emit_done (s : State) (z : Size) (e : Bits) : (emit s z e).done = s.done := rfl
@[simp] theorem emit_ovr (s : State) (z : Size) (e : Bits) : (emit s z e).ovr = s.ovr := rfl
@[simp] theorem emit_fatal (s : State) (z : Size) (e : Bits) : (emit s z e).fatal = s.fatal := rfl
@[simp] theorem emit_err (s : State) (z : Size) (e : Bits) : (emit s z e).err = s.err := rfl
@[simp] theorem emit_result (s : State) (z : Size) (e : Bits) : (emit s z e).result = zextVal (chk e z.csW) := rfl
@[simp] theorem emit_invmask (s : State) (z : Size) (e : Bits) : (emit s z e).invmask = s.invmask := rfl
@[simp] theorem emit_mnlen (s : State) (z : Size) (e : Bits) : (emit s z e).mnlen = BitVec.ofNat 8 z.nWords := rfl
@[simp] theorem emit_elen (s : State) (z : Size) (e : Bits) : (emit s z e).elen = s.elen := rfl
@[simp] theorem emit_padcnt (s : State) (z : Size) (e : Bits) : (emit s z e).padcnt = s.padcnt := rfl
@[simp] theorem emit_slen (s : State) (z : Size) (e : Bits) : (emit s z e).slen = s.slen := rfl
@[simp] theorem emit_wbuf (s : State) (z : Size) (e : Bits) : (emit s z e).wbuf = s.wbuf := rfl
@[simp] theorem emit_ent (s : State) (z : Size) (e : Bits) : (emit s z e).ent = s.ent := rfl
@[simp] theorem emit_acc (s : State) (z : Size) (e : Bits) : (emit s z e).acc = s.acc := rfl
@[simp] theorem emit_mn (s : State) (z : Size) (e : Bits) : (emit s z e).mn = mnemonicSlots z.nWords (split (e ++ chk e z.csW)) := rfl
@[simp] theorem emit_pend (s : State) (z : Size) (e : Bits) : (emit s z e).pend = s.pend := rfl

end Sys2Proof.Machine
end

