-- ==== Sys2Proof/Laws/Operands.lean ====
section
/-! SUPPORT. Reading one register of a file, and what the writes of the register files leave there. -/

namespace Sys2Proof.Machine

theorem getD_toList_of_lt {n : Nat} {α : Type} (v : Vector α n) (d : α) {k : Nat} (h : k < n) :
    v.toList.getD k d = v[k] := by
  simp [List.getD, h]

theorem getD_toList_of_le {n : Nat} {α : Type} (v : Vector α n) (d : α) {k : Nat} (h : n ≤ k) :
    v.toList.getD k d = d :=
  List.getD_eq_default _ _ (by simpa using h)

theorem entWord_of_lt (s : State) {k : Nat} (h : k < 8) : s.entWord k = s.ent[k] := getD_toList_of_lt _ _ h

theorem accWord_of_lt (s : State) {k : Nat} (h : k < 8) : s.accWord k = s.acc[k] := getD_toList_of_lt _ _ h

theorem slot_of_lt (s : State) {i : Nat} (h : i < 24) : s.slot i = s.mn[i] := getD_toList_of_lt _ _ h

/-- The block has 24 slots; a number past them reads as the empty slot. -/
theorem slot_of_le (s : State) {i : Nat} (h : 24 ≤ i) : s.slot i = Slot.empty := getD_toList_of_le _ _ h

/-- Writing slot i leaves slot i holding what was written. -/
theorem slot_putSlot_self (s : State) {i : Nat} (x : Slot) (h : i < 24) : (s.putSlot i x).slot i = x := by
  rw [slot_of_lt _ h]; simp

/-- Writing slot i leaves every other slot alone. -/
theorem slot_putSlot_of_ne (s : State) {i j : Nat} (x : Slot) (h : i ≠ j) : (s.putSlot i x).slot j = s.slot j := by
  by_cases hj : j < 24
  · rw [slot_of_lt _ hj, slot_of_lt _ hj]
    simp [h]
  · rw [slot_of_le _ (by omega), slot_of_le _ (by omega)]

/-- A slot of an emitted mnemonic below the word count holds a valid word (R110). -/
theorem mnemonicSlots_of_lt {n : Nat} {g : List Idx} {j : Nat} (hj : j < 24) (hn : j < n) :
    (mnemonicSlots n g)[j] = { v := true, idx := g.getD j 0#11 } := by
  simp [mnemonicSlots, hn]

/-- A slot of an emitted mnemonic from the word count on is cleared (R110). -/
theorem mnemonicSlots_of_le {n : Nat} {g : List Idx} {j : Nat} (hj : j < 24) (hn : n ≤ j) :
    (mnemonicSlots n g)[j] = Slot.empty := by
  simp [mnemonicSlots, Nat.not_lt.2 hn]

/-- A register of an accumulator after ACCUM's XOR (R106). -/
theorem xorAcc_getElem (s : State) (z : Size) {k : Nat} (h : k < 8) :
    (s.xorAcc z)[k] = if k < z.entW / 32 then s.acc[k] ^^^ s.ent[k] else s.acc[k] := by
  simp [State.xorAcc]

/-- A register that `put_ent` writes (R19). -/
theorem bitsFile_getElem (e : Bits) {k : Nat} (h : k < 8) :
    (bitsFile e)[k] = if 32 * k < e.length then bitsWord (slice e (32 * k) 32) else 0#32 := by
  simp [bitsFile]

/-- A slot written with the word it reads as holds the same fields (R43). -/
@[simp] theorem slot_ofWord_word (x : Slot) : Slot.ofWord x.word = x := by
  cases x with
  | mk v i =>
    have hi : (BitVec.ofBool v ++ 0#20 ++ i).extractLsb' 0 11 = i := extractLsb'_append_right _ _
    have hv : (BitVec.ofBool v ++ 0#20 ++ i).getLsbD 31 = v := by
      rw [BitVec.getLsbD_append, BitVec.getLsbD_append]
      simp
    simp only [Slot.ofWord, Slot.word, hi, hv]

end Sys2Proof.Machine
end

