-- ==== Sys2Proof/Laws/Ops.lean ====
section
/-! SUPPORT. What each shared operation can do, said once: completion, validation, the search for the last word, bus
accesses, the sequencer's turn and the step. Later proofs cite these and do not unfold the operations. -/

namespace Sys2Proof.Machine

/-! ### Completion -/

/-- What `finish` leaves: the command's own outcome, or WORDLIST_INTEGRITY alone. -/
theorem finish_cases (s : State) (o : Completion) :
    (s.fatal = true ∧ finish s o = s.completedAs 7#4) ∨
    (s.fatal = false ∧ finish s o = o.writes.completedAs o.code.bits) := by
  cases h : s.fatal
  · exact .inr ⟨rfl, by simp [finish, h, commit, State.completedAs]⟩
  · exact .inl ⟨rfl, by simp [finish, h, commit, State.completedAs, raise, Code.bits]⟩

theorem finish_of_fatal {s : State} (o : Completion) (h : s.fatal = true) : finish s o = s.completedAs 7#4 := by
  rcases finish_cases s o with ⟨_, e⟩ | ⟨hf, _⟩
  · exact e
  · simp [h] at hf

theorem finish_of_not_fatal {s : State} (o : Completion) (h : s.fatal = false) :
    finish s o = o.writes.completedAs o.code.bits := by
  rcases finish_cases s o with ⟨hf, _⟩ | ⟨_, e⟩
  · simp [h] at hf
  · exact e

@[simp] theorem runCommand_eq (s : State) (o : Completion) : runCommand s o = .next (finish s o) := rfl

@[simp] theorem complete_code (w : State) : (complete w).code = .ok := rfl

@[simp] theorem complete_writes (w : State) : (complete w).writes = w := rfl

@[simp] theorem raise_code (e : Code) (w : State) : (raise e w).code = e := rfl

@[simp] theorem raise_writes (e : Code) (w : State) : (raise e w).writes = w := rfl

/-- An illegal command leaves only its completion (R119). -/
theorem illegalCommand_eq (s : State) :
    illegalCommand s = .next (s.completedAs (if s.fatal then 7#4 else 8#4)) := by
  cases h : s.fatal
  · simp [illegalCommand, finish_of_not_fatal _ h, Code.bits]
  · simp [illegalCommand, finish_of_fatal _ h]

/-- Every command ends in a completion: its meaning is `finish` of some outcome. -/
theorem exec_eq_finish (i : Instr) (s : State) : ∃ o, exec i s = .next (finish s o) := by
  cases i with
  | lookup slot =>
    by_cases h : slot.toNat ≤ 23
    · exact ⟨lookupOutcome Config.WORDLIST slot.toNat s, by simp [exec, execLookup, h]⟩
    · exact ⟨raise .illegalCommand s, by simp [exec, execLookup, h, illegalCommand]⟩
  | wordat index => exact ⟨_, rfl⟩
  | validate => exact ⟨_, rfl⟩
  | checksum => exact ⟨_, rfl⟩
  | recover => exact ⟨_, rfl⟩
  | encode => exact ⟨_, rfl⟩
  | clrsess => exact ⟨_, rfl⟩
  | accum => exact ⟨_, rfl⟩
  | finalize => exact ⟨_, rfl⟩

/-! ### Validation -/

theorem size_ofCount_eq_some {n : Nat} {z : Size} : Size.ofCount n = some z ↔ n = z.nWords := by
  unfold Size.ofCount
  cases z <;> simp only [Size.nWords]
  · split
    · simp_all
    · split <;> simp_all
  · split
    · simp_all
    · split <;> simp_all

theorem size_ofCount_eq_none {n : Nat} : Size.ofCount n = none ↔ n ≠ 12 ∧ n ≠ 24 := by
  unfold Size.ofCount
  split
  · simp_all
  · split <;> simp_all

/-- The three answers of `validate()` and when each is given (R95). -/
theorem validate_cases (s : State) :
    (validate s = .invalidWordCount ∧ s.mnlen.toNat ≠ 12 ∧ s.mnlen.toNat ≠ 24) ∨
    ∃ z : Size, s.mnlen.toNat = z.nWords ∧
      ((validate s = .valid z ∧ s.invalidSlots z.nWords = 0#24) ∨
       (validate s = .invalidWords (s.invalidSlots z.nWords) ∧ s.invalidSlots z.nWords ≠ 0#24)) := by
  unfold validate
  cases h : Size.ofCount s.mnlen.toNat with
  | none => exact .inl ⟨rfl, size_ofCount_eq_none.1 h⟩
  | some z =>
    refine .inr ⟨z, size_ofCount_eq_some.1 h, ?_⟩
    by_cases hm : s.invalidSlots z.nWords = 0#24 <;> simp [hm]

/-! ### The search for the last word -/

/-- What a candidate that matches is (R97). -/
theorem tryCombo_eq_some {z : Size} {pre : Bits} {last : Idx} {combo : Nat} {f : Found} :
    tryCombo z pre last combo = some f ↔
      bin z.addW combo ++ chk (pre ++ bin z.addW combo) z.csW = bin IDXW last.toNat ∧
      f = { combo := combo, cs := chk (pre ++ bin z.addW combo) z.csW, cand := pre ++ bin z.addW combo } := by
  simp only [tryCombo, Option.ite_none_right_eq_some, Option.some.injEq]
  exact and_congr_right fun _ => eq_comm

/-- A search that answers found a candidate below 2^B that matches (R97). -/
theorem search_eq_some {s : State} {z : Size} {f : Found} (h : search s z = some f) :
    ∃ combo < 2 ^ z.addW,
      tryCombo z (s.pack (z.nWords - 1)) (s.slot (z.nWords - 1)).idx combo = some f := by
  obtain ⟨c, hc, hf⟩ := List.exists_of_findSome?_eq_some h
  exact ⟨c, List.mem_range.1 hc, hf⟩

/-! ### Bus accesses -/

theorem accessRefusal_eq_none {width : Nat} {off : Offset} :
    accessRefusal width off = none ↔ width = 32 ∧ off.toNat % 4 = 0 := by
  unfold accessRefusal
  split
  · simp_all
  · split <;> simp_all

/-- The two outcomes of a host access. -/
theorem hostAccess_cases (s t : State) (width : Nat) (off : Offset) :
    (∃ r, accessRefusal width off = some r ∧ hostAccess s width off t = .refused r) ∨
    (width = 32 ∧ off.toNat % 4 = 0 ∧ hostAccess s width off t = .next (if s.rstN then t else s)) := by
  unfold hostAccess
  cases h : accessRefusal width off with
  | some r => exact .inl ⟨r, rfl, rfl⟩
  | none => exact .inr ⟨(accessRefusal_eq_none.1 h).1, (accessRefusal_eq_none.1 h).2, rfl⟩

/-- A host read changes nothing but the value returned and the count of draws (R54). -/
theorem hostRead_frame (s : State) (off : Offset) :
    hostRead s off = { s with rdata := (hostRead s off).rdata, draws := (hostRead s off).draws } := rfl

/-- What a host write can do (R142): nothing, a CTRL write, a STATUS write, a drop with OVR, an acceptance, or a store. -/
theorem hostWrite_cases (s : State) (off : Offset) (v : Word) :
    hostWrite s off v = s ∨
    (regAt off = some .ctrl ∧ hostWrite s off v = ctrlWrite s v) ∨
    (regAt off = some .status ∧ hostWrite s off v = s.statusWrite v) ∨
    (s.busy = true ∧ hostWrite s off v = { s with ovr := true }) ∨
    (s.busy = false ∧ regAt off = some .cmd ∧ hostWrite s off v = accept s v) ∨
    (s.busy = false ∧ ∃ r, regAt off = some r ∧ hostWrite s off v = storeReg s r v) := by
  unfold hostWrite
  cases h : regAt off with
  | none => simp
  | some r => cases hb : s.busy <;> cases r <;> simp

/-- What a CTRL write can do (R32). -/
theorem ctrlWrite_cases (s : State) (v : Word) :
    (v.getLsbD 1 = true ∧ ctrlWrite s v = resetState s) ∨
    (v.getLsbD 1 = false ∧ ctrlWrite s v = { s with ie := v.getLsbD 0 }) := by
  unfold ctrlWrite
  cases v.getLsbD 1
  · exact .inr ⟨rfl, rfl⟩
  · exact .inl ⟨rfl, rfl⟩

/-! ### The sequencer and the step -/

/-- What the sequencer's turn can do: idle, run the decoded command, or complete an illegal one (R73). -/
theorem sequencerTurn_cases (s : State) :
    (s.pend = none ∧ sequencerTurn s = .next s) ∨
    (∃ c i, s.pend = some c ∧ decode c = .ok i ∧ sequencerTurn s = exec i s) ∨
    (∃ c e, s.pend = some c ∧ decode c = .error e ∧ sequencerTurn s = illegalCommand s) := by
  cases h : s.pend with
  | none => exact .inl ⟨rfl, by simp [sequencerTurn, h]⟩
  | some c =>
    cases hd : decode c with
    | ok i => exact .inr (.inl ⟨c, i, rfl, hd, by simp [sequencerTurn, h, hd]⟩)
    | error e => exact .inr (.inr ⟨c, e, rfl, hd, by simp [sequencerTurn, h, hd]⟩)

theorem step_of_no_input {s : State} (h : s.inputs = []) : step s = sequencerTurn s := by
  simp [step, h]

theorem step_of_input {s : State} {e : Event} {rest : List Event} (h : s.inputs = e :: rest) :
    step s = takeEvent e { s with inputs := rest } := by
  simp [step, h]

theorem afterTurn_of_no_input {s : State} (h : s.inputs = []) : s.afterTurn = s := by
  cases s
  simp only at h
  subst h
  rfl

/-- A step whose turn is the sequencer's is the sequencer's turn on the state less that input. -/
theorem step_of_turn {s : State} (h : s.TurnIsNext) : step s = sequencerTurn s.afterTurn := by
  rcases hi : s.inputs with _ | ⟨e, rest⟩
  · rw [step_of_no_input hi, afterTurn_of_no_input hi]
  · have he : e = .sequencer := by simpa [State.TurnIsNext, hi] using h
    subst he
    rw [step_of_input hi, State.afterTurn, hi]
    rfl

@[simp] theorem step_arrives (s : State) (e : Event) :
    step (s.arrives e) = takeEvent e s := by
  cases s; rfl

/-- What a step can do: the sequencer's turn, or the next input. -/
theorem step_cases (s : State) :
    (s.inputs = [] ∧ step s = sequencerTurn s) ∨
    ∃ e rest, s.inputs = e :: rest ∧ step s = takeEvent e { s with inputs := rest } := by
  cases h : s.inputs with
  | nil => exact .inl ⟨rfl, step_of_no_input h⟩
  | cons e rest => exact .inr ⟨e, rest, rfl, step_of_input h⟩

end Sys2Proof.Machine
end

