-- ==== Sys2Proof/Laws/PerInstr.lean ====
section
/-! SUPPORT. The families of lemmas that are proved command by command: the OP field of every encoding (spec/30_encoding.md
R66, R68). -/

namespace Sys2Proof.Laws.OpcodeField

/-- Bits 7:0 of the encoding of a command are its OP value. -/
def Statement (i : Instr) : Prop := opField (encode i) = i.op

theorem lookup (slot : BitVec 5) : Statement (.lookup slot) :=
  extractLsb'_append_right _ 0x01#8

theorem wordat (index : Idx) : Statement (.wordat index) :=
  extractLsb'_append_right _ 0x02#8

theorem validate : Statement .validate := rfl

theorem checksum : Statement .checksum := rfl

theorem recover : Statement .recover := rfl

theorem encode : Statement .encode := rfl

theorem clrsess : Statement .clrsess := rfl

theorem accum : Statement .accum := rfl

theorem finalize : Statement .finalize := rfl

end Sys2Proof.Laws.OpcodeField
end

