-- ==== Sys2Proof/Tests/Slice0.lean ====
section
/-! SUPPORT. Tests against the vectors of spec/95_test_vectors.md, the words of the encoding, the check of WellFormed, and a
witness for the hypotheses of each statement. -/

namespace Sys2Proof.Machine.Tests

set_option maxRecDepth 8192

/-! ### Helpers -/

/-- The start of the vectors: the reset state with a word list that passed its check (95_test_vectors.md section 2). -/
def base : State := { State.reset with fatal := false }

/-- The state an outcome goes on with. -/
def after (o : Host.Outcome State Fault Refusal) : State :=
  match o with
  | .next s => s
  | .fault _ => State.reset
  | .refused _ => State.reset

/-- A mnemonic in the slots: the indices, V = 1, and the word count. -/
def withWords (l : List Nat) (s : State) : State :=
  { s with
    mn := Vector.ofFn fun j => if j.val < l.length then Slot.valid (idx (l.getD j.val 0)) else s.mn[j]
    mnlen := BitVec.ofNat 8 l.length }

/-- Eleven words of index 0 and a last one (the vectors V-RC-1, V-RC-5 to V-RC-8). -/
def pad12 (last : Nat) : State := withWords (List.replicate 11 0 ++ [last]) base

/-- Twenty-three words of index 0 and a last one (V-RC-9, V-RC-14). -/
def pad24 (last : Nat) : State := withWords (List.replicate 23 0 ++ [last]) base

/-- A file of eight registers that hold one value. -/
def same (w : Word) : Vector Word 8 := Vector.replicate 8 w

/-- A word list that passes the check: two nonzero bytes that spell the index. -/
def listW (i : Idx) : List Byte := [BitVec.ofNat 8 (1 + i.toNat / 128), BitVec.ofNat 8 (1 + i.toNat % 128)]

/-- A word list with the two entries the source anchors (R81). -/
def refW (i : Idx) : List Byte :=
  if i = 0#11 then [0x61#8, 0x62#8, 0x61#8, 0x6E#8, 0x64#8, 0x6F#8, 0x6E#8]
  else if i = 3#11 then [0x61#8, 0x62#8, 0x6F#8, 0x75#8, 0x74#8]
  else listW i

/-- A state with a command pending. -/
def busy : State := { base with pend := some 0x00000005#32 }

/-! ### The command word: every constructor by a word written out from R66, R68 and section 2.1 of the vectors -/

-- OP = 0x01 in bits 7:0, SLOT = 23 = 0b10111 in bits 12:8: V-EN-2.
theorem test_decode_lookup : decode 0b00000000000000000001011100000001#32 = .ok (.lookup 23#5) := by decide

-- OP = 0x02 in bits 7:0, IMM11 = 2047 in bits 26:16: V-EN-7.
theorem test_decode_wordat : decode 0b00000111111111110000000000000010#32 = .ok (.wordat 2047#11) := by decide

theorem test_decode_validate : decode 0b00000000000000000000000000000011#32 = .ok .validate := by decide

theorem test_decode_checksum : decode 0b00000000000000000000000000000100#32 = .ok .checksum := by decide

theorem test_decode_recover : decode 0b00000000000000000000000000000101#32 = .ok .recover := by decide

theorem test_decode_encode : decode 0b00000000000000000000000000000110#32 = .ok .encode := by decide

theorem test_decode_clrsess : decode 0b00000000000000000000000000000111#32 = .ok .clrsess := by decide

theorem test_decode_accum : decode 0b00000000000000000000000000001000#32 = .ok .accum := by decide

theorem test_decode_finalize : decode 0b00000000000000000000000000001001#32 = .ok .finalize := by decide

/-- V-EN-3, V-EN-4, V-EN-5, V-EN-8, V-EN-9, V-EN-11 to V-EN-15. -/
theorem test_decode_illegal :
    decode 0x00001801#32 = .error (.slotOutOfRange 24#5) ∧ decode 0x00002001#32 = .error .nonzeroField ∧
    decode 0x00010001#32 = .error .nonzeroField ∧ decode 0x08000002#32 = .error .nonzeroField ∧
    decode 0x00000102#32 = .error .nonzeroField ∧ decode 0x00000103#32 = .error .nonzeroField ∧
    decode 0x80000005#32 = .error .nonzeroField ∧ decode 0x00000000#32 = .error (.unknownOpcode 0x00#8) ∧
    decode 0x0000000A#32 = .error (.unknownOpcode 0x0A#8) ∧ decode 0x000000FF#32 = .error (.unknownOpcode 0xFF#8) := by
  decide

/-- R74: 0x00000001 + 256 × 23 and 0x00000002 + 65536 × 3. -/
theorem test_encode : encode (.lookup 23#5) = 0x00001701#32 ∧ encode (.wordat 3#11) = 0x00030002#32 := by decide

theorem test_decodeTableWord :
    decodeTableWord 32 0x00030002 = some (.wordat 3#11) ∧ decodeTableWord 32 0x0000000A = none := by decide

/-- The one check of WellFormed refuses SLOT 24 and SLOT 31. -/
theorem test_wellFormed_slot :
    ¬ (Instr.lookup 24#5).WellFormed ∧ ¬ (Instr.lookup 31#5).WellFormed ∧ (Instr.lookup 23#5).WellFormed := by decide

/-- `withFetchWord` makes the very next step the command, from the state after reset. -/
theorem test_withFetchWord : step (State.reset.withFetchWord 32 0x00000007) =
    exec .clrsess { State.reset with pend := some 0x00000007#32 } := rfl

/-! ### The commands -/

-- V-WL-2: "about", LOOKUP 5.
theorem test_lookup_found :
    let o := lookupOutcome refW 5 { base with wbuf := #v[0x61626F75, 0x74000000, 0, 0] }
    o.code = .ok ∧ (o.writes.slot 5).word = 0x80000003#32 ∧ o.writes.result = 0x80000003#32 := by decide +kernel

-- V-WL-3: "Abandon", LOOKUP 2 with MN[2] = 0x80000007 before.
theorem test_lookup_notFound :
    let o := lookupOutcome refW 2 ({ base with wbuf := #v[0x4162616E, 0x646F6E00, 0, 0] }.putSlot 2 (Slot.valid 7#11))
    o.code = .invalidWord ∧ (o.writes.slot 2).word = 0#32 ∧ o.writes.result = 0#32 := by decide +kernel

-- V-WL-7: WORDAT 0 over a buffer of ones.
theorem test_wordat_0 :
    let o := wordatOutcome refW 0#11 { base with wbuf := Vector.replicate 4 0xFFFFFFFF#32 }
    o.writes.wbuf = #v[0x6162616E, 0x646F6E00, 0, 0] ∧ o.writes.result = 7#32 := by decide

-- V-WL-8: WORDAT 3.
theorem test_wordat_3 :
    let o := wordatOutcome refW 3#11 base
    o.writes.wbuf = #v[0x61626F75, 0x74000000, 0, 0] ∧ o.writes.result = 5#32 := by decide

-- V-VA-2: slots 3 and 11 invalid.
theorem test_validate_words :
    let t := after (exec .validate (((pad12 0).putSlot 3 Slot.empty).putSlot 11 Slot.empty))
    t.err = 3#4 ∧ t.invmask = 0x000808#24 := by decide

-- V-VA-8: 23 words.
theorem test_validate_count :
    let t := after (exec .validate (withWords (List.replicate 23 0) base))
    t.err = 2#4 ∧ t.invmask = 0#24 := by decide

-- R89, R90: the ends of each line, read from the text of the rules.
theorem test_sha_constants :
    shaK.length = 64 ∧ shaK[0]? = some 0x428a2f98#32 ∧ shaK[7]? = some 0xab1c5ed5#32 ∧ shaK[8]? = some 0xd807aa98#32 ∧
    shaK[63]? = some 0xc67178f2#32 ∧ shaH0.a = 0x6a09e667#32 ∧ shaH0.h = 0x5be0cd19#32 := by decide

-- V-CK-9.
theorem test_checksum_12 :
    (after (exec .checksum { base with ent := #v[0x0C1E24E5, 0x917779D2, 0x97E14D45, 0xF14E1A1A, 9, 9, 9, 9] })).result =
      0x00000007#32 := by decide +kernel

-- V-CK-7.
theorem test_checksum_24 :
    (after (exec .checksum { base with elen := true, ent := same 0x80808080#32 })).result = 0x000000BD#32 := by
  decide +kernel

-- V-RC-13.
theorem test_recover_ok :
    let t := after (exec .recover
      (withWords [96, 1929, 459, 279, 956, 1866, 764, 333, 559, 1107, 1076, 423] base))
    t.err = 0#4 ∧ t.ent = #v[0x0C1E24E5, 0x917779D2, 0x97E14D45, 0xF14E1A1A, 0, 0, 0, 0] ∧ t.result = 0x0000071A#32 := by
  decide +kernel

-- V-RC-18: a failed recovery leaves ENT and ELEN.
theorem test_recover_failed :
    let t := after (exec .recover { pad12 2 with elen := true, ent := same 0xFFFFFFFF#32 })
    t.err = 6#4 ∧ t.ent = same 0xFFFFFFFF#32 ∧ t.elen = true ∧ t.result = 0#32 := by decide +kernel

-- V-SR-1: slots 12 to 23 are cleared.
theorem test_encode_12 :
    let t := after (exec .encode { base with mn := Vector.replicate 24 (Slot.valid 0x123#11) })
    t.mn = (pad12 3).mn ∧ t.mnlen = 12#8 ∧ t.result = 3#32 := by decide +kernel

-- V-SR-2.
theorem test_encode_24 :
    let t := after (exec .encode { base with elen := true })
    t.mn = (pad24 102).mn ∧ t.mnlen = 24#8 ∧ t.result = 0x66#32 := by decide +kernel

-- The example of R105.
theorem test_clrsess :
    let t := after (exec .clrsess { base with padcnt := 2#8, slen := 1#2, acc := same 0xFFFFFFFF#32, result := 2#32 })
    t.acc = same 0#32 ∧ t.sessionWord = 0#32 ∧ t.result = 0#32 ∧ t.err = 0#4 := by decide

-- V-XC-1 and V-XC-10.
theorem test_accum_two :
    let s := after (exec .accum { base with ent := #v[0x7F7F7F7F, 0x7F7F7F7F, 0x7F7F7F7F, 0x7F7F7F7F, 1, 1, 1, 1] })
    let t := after (exec .accum { s with ent := same 0x80808080#32 })
    t.acc = #v[0xFFFFFFFF, 0xFFFFFFFF, 0xFFFFFFFF, 0xFFFFFFFF, 0, 0, 0, 0] ∧ t.sessionWord = 0x00000102#32 ∧
      t.result = 2#32 := by decide

-- V-XC-9: saturation.
theorem test_accum_saturates :
    let t := after (exec .accum { base with padcnt := 255#8, slen := 1#2, ent := same 0x7F7F7F7F#32 })
    t.acc[0] = 0x7F7F7F7F#32 ∧ t.padcnt = 255#8 ∧ t.result = 255#32 ∧ t.err = 0#4 := by decide

-- V-SR-6.
theorem test_finalize_ok :
    let t := after (exec .finalize { base with
      padcnt := 2#8, slen := 1#2, acc := #v[0xFFFFFFFF, 0xFFFFFFFF, 0xFFFFFFFF, 0xFFFFFFFF, 0, 0, 0, 0] })
    t.mn = (withWords (List.replicate 11 2047 ++ [2037]) base).mn ∧ t.result = 5#32 ∧ t.ent = t.acc ∧
      t.sessionWord = 0x00000102#32 := by decide +kernel

-- V-SR-5: one pad is too few.
theorem test_finalize_one_pad :
    let t := after (exec .finalize { base with padcnt := 1#8, slen := 1#2, result := 9#32 })
    t.err = 5#4 ∧ t.result = 0#32 ∧ t.mnlen = 0#8 := by decide

/-! ### The register window -/

-- V-HZ-4: a write to ENT[0] under a pending command is dropped and sets OVR.
theorem test_busy_write : step (busy.arrives (.write 32 0x040#12 0xDEADBEEF#32)) = .next { busy with ovr := true } := rfl

-- V-HZ-7: W1C.
theorem test_status_write :
    (after (step ({ base with done := true, ovr := true }.arrives (.write 32 0x008#12 4#32)))).statusWord = 0x00000002#32 := by
  decide

-- V-HZ-14: the reserved bits of a slot.
theorem test_slot_write :
    (after (step (base.arrives (.write 32 0x090#12 0xFFFFFFFF#32)))).readValue 0x090#12 = 0x800007FF#32 := by decide

-- V-HZ-11: a soft reset abandons the pending command.
theorem test_soft_reset :
    step (busy.arrives (.write 32 0x004#12 0x00000002#32)) = .next State.reset := rfl

/-! ### Witnesses -/

theorem witness_DecodeAndEncodeAgree :
    (Instr.lookup 23#5).WellFormed ∧ (Instr.wordat 2047#11).WellFormed ∧ decode 0x00001701#32 = .ok (.lookup 23#5) := by
  decide

theorem witness_RowSelectsItsCommandAlone :
    ∃ r ∈ opRows, selects 0x00001701#32 r = true ∧ r.mnemonic = "LOOKUP" := by decide

/-- `PlainCommand` of each of the seven commands with no operand: its word, and its word with bit 31 set. -/
theorem witness_PlainCommand :
    ∀ op ∈ [0x03#8, 0x04#8, 0x05#8, 0x06#8, 0x07#8, 0x08#8, 0x09#8],
      let c : Word := 0#24 ++ op
      let d : Word := 0x800000#24 ++ op
      opField c = op ∧ aboveOp c = 0#24 ∧ opField d = op ∧ aboveOp d ≠ 0#24 ∧
      ({ base with pend := some d } : State).fatal = false ∧ ({ base with pend := some c, fatal := true } : State).fatal = true := by
  decide

/-- The first clauses of LookupEncodesTheWord and WordatDecodesTheIndex, at the boundary values of the fields. -/
theorem witness_operandFields :
    opField 0x00001701#32 = 0x01#8 ∧ aboveSlot 0x00001701#32 = 0#19 ∧ (slotField 0x00001701#32).toNat = 23 ∧
    opField 0x00001801#32 = 0x01#8 ∧ (slotField 0x00001801#32).toNat = 24 ∧
    opField 0x00002001#32 = 0x01#8 ∧ aboveSlot 0x00002001#32 ≠ 0#19 ∧
    opField 0x07FF0002#32 = 0x02#8 ∧ aboveImm11 0x07FF0002#32 = 0#5 ∧ belowImm11 0x07FF0002#32 = 0#8 ∧
    opField 0x08000002#32 = 0x02#8 ∧ aboveImm11 0x08000002#32 ≠ 0#5 ∧
    opField 0x00000102#32 = 0x02#8 ∧ belowImm11 0x00000102#32 ≠ 0#8 := by decide

/-- The two kinds of buffer that are never found, beside `witness_wordlistOk`. -/
theorem witness_neverFound :
    byteAt base.wbufBytes 0 = 0x00#8 ∧
    (let s := { base with wbuf := #v[0x61000000, 0, 0, 0x00000062] }
     1 < 15 ∧ byteAt s.wbufBytes 1 = 0x00#8 ∧ byteAt s.wbufBytes 15 ≠ 0x00#8) := by decide

/-- CommandIsAcceptedAtOnce, CtrlWrite and StatusWriteClearsWhatIsWrittenOne, and the meanings that ask for FATAL = 0. -/
theorem witness_idle : base.rstN = true ∧ base.pend = none ∧ base.fatal = false := ⟨rfl, rfl, rfl⟩

/-- The idle turn of StepRunsTheDecodedCommand, of itself and scheduled, and the level RST_N already has. -/
theorem witness_idle_turn :
    base.TurnIsNext ∧ (base.arrives .sequencer).TurnIsNext ∧ base.pend = none ∧
    step base = .next base ∧ step (base.arrives .sequencer) = .next base ∧ step (base.arrives (.rstN true)) = .next base := by
  refine ⟨.inl rfl, .inr rfl, rfl, rfl, rfl, rfl⟩

/-- StringsAreTheRegisterBits at the last register and the last bit of each string. -/
theorem witness_StringsAreTheRegisterBits :
    (3 : Fin 4).val < 4 ∧ (7 : Fin 8).val < Size.words24.entW / 32 ∧ (3 : Fin 8).val < Size.words12.entW / 32 ∧
    (23 : Fin 24).val < 24 := by decide

theorem witness_StepRunsTheDecodedCommand :
    (busy.TurnIsNext ∧ (busy.arrives .sequencer).TurnIsNext) ∧ busy.pend = some 0x00000005#32 ∧
    decode 0x00000005#32 = .ok .recover ∧ Instr.recover.WellFormed ∧
    decodeTableWord 32 0x00000005 = some .recover := by decide

theorem witness_IllegalCommandOnlyCompletes :
    legal 0x00001801#32 = false ∧ base.fatal = false ∧ base.rstN = true ∧ base.pend = none := by decide

theorem witness_BadWordListFailsEveryCommand :
    let s := { busy with fatal := true }
    s.fatal = true ∧ s.TurnIsNext ∧ s.pend = some 0x00000005#32 := by decide

theorem witness_CommandsCompleteWithTheirOwnCodes :
    base.fatal = false ∧ Instr.encode.WellFormed ∧ (Instr.lookup 24#5).wellFormed = false ∧
    ({ base with fatal := true } : State).fatal = true := by decide

/-- The buffer that holds the number `n`. -/
def numbered (n : Nat) : State := { base with wbuf := #v[BitVec.ofNat 32 n, 0, 0, 0] }

theorem numbered_inj {a b : Nat} (ha : a < 2049) (hb : b < 2049)
    (h : (numbered a).wbufBytes = (numbered b).wbufBytes) : a = b := by
  have e : ∀ n, (numbered n).wbufBytes = wordBytes (BitVec.ofNat 32 n) ++ List.replicate 12 0#8 := fun _ => rfl
  rw [e, e] at h
  have h4 := List.append_cancel_right h
  simp only [wordBytes, List.cons.injEq, and_true] at h4
  obtain ⟨-, -, h2, h1⟩ := h4
  have t2 := congrArg BitVec.toNat h2
  have t1 := congrArg BitVec.toNat h1
  simp at t1 t2
  omega

/-- Whatever the word list is, some buffer holds no word of it: the witness of LOOKUP's INVALID_WORD. -/
theorem witness_lookup_invalidWord :
    ∃ s : State, s.fatal = false ∧ (after (exec (.lookup 0#5) s)).err = 1#4 := by
  by_contra hno
  have found : ∀ n, ∃ i, indexOf Config.WORDLIST (numbered n).wbufBytes = some i := by
    intro n
    cases h : indexOf Config.WORDLIST (numbered n).wbufBytes with
    | some i => exact ⟨i, rfl⟩
    | none =>
      refine absurd ⟨numbered n, rfl, ?_⟩ hno
      have hf : (numbered n).fatal = false := rfl
      simp [exec, execLookup, finish_of_not_fatal _ hf, lookupOutcome, h, after, Code.bits]
  choose f hf using found
  obtain ⟨a, b, hne, hab⟩ :=
    Fintype.exists_ne_map_eq_of_card_lt (fun n : Fin 2049 => (f n.val).toFin) (by simp)
  refine hne (Fin.ext (numbered_inj a.isLt b.isLt ?_))
  have buffer : ∀ n, pad16 (Config.WORDLIST (f n)) = (numbered n).wbufBytes := by
    intro n
    have h := hf n
    simp only [indexOf, Option.map_eq_some_iff] at h
    obtain ⟨k, hk, he⟩ := h
    have := List.find?_some hk
    rw [← he]
    simpa using this
  have hfab : f a.val = f b.val := BitVec.eq_of_toFin_eq hab
  rw [← buffer, ← buffer, hfab]

/-- The other command-specific codes, each at a state. -/
theorem witness_ErrorMakesOnlyItsOwnWrites :
    (after (exec .validate base)).err = 2#4 ∧ (after (exec .validate ((pad12 0).putSlot 3 Slot.empty))).err = 3#4 ∧
    (after (exec .accum { base with slen := 2#2 })).err = 4#4 ∧ (after (exec .finalize base)).err = 5#4 ∧
    (after (exec .recover (pad12 4))).err = 6#4 := by decide +kernel

theorem witness_OnlyTheNamedCommandsWriteARegister :
    (after (exec .validate ((pad12 0).putSlot 3 Slot.empty))).invmask ≠ 0#24 ∧
    (after (exec .encode base)).mnlen ≠ base.mnlen ∧ (after (exec .encode base)).mn ≠ base.mn ∧
    (after (exec .recover (pad24 102))).elen ≠ base.elen ∧
    (after (exec .recover { pad12 3 with ent := same 1#32 })).ent ≠ same 1#32 ∧
    (let t := after (exec .accum { base with ent := same 1#32 })
     t.padcnt ≠ base.padcnt ∧ t.slen ≠ base.slen ∧ t.acc ≠ base.acc) := by decide +kernel

/-- Whatever the word list is, WORDAT changes some buffer. -/
theorem witness_wordat_writes : ∃ s : State, (after (exec (.wordat 0#11) s)).wbuf ≠ s.wbuf := by
  by_cases h : (after (exec (.wordat 0#11) base)).wbuf = base.wbuf
  · refine ⟨{ base with wbuf := Vector.replicate 4 1#32 }, fun h' => ?_⟩
    have e : base.wbuf = Vector.replicate 4 1#32 := h.symm.trans h'
    exact absurd e (by decide)
  · exact ⟨base, h⟩

theorem witness_UpperEntropyIsNotReadForTwelveWords :
    let e : Vector Word 8 := #v[0, 0, 0, 0, 1, 2, 3, 4]
    base.elen = false ∧ e ≠ base.ent ∧ (∀ k, k < 4 → e.toList.getD k 0#32 = base.entWord k) ∧
    exec .clrsess base = .next (after (exec .clrsess base)) := by
  refine ⟨rfl, by decide, by decide, rfl⟩

/-- The premise of the statements about a sound word list. -/
theorem witness_wordlistOk : wordlistOk listW = true := by
  unfold wordlistOk
  simp only [Bool.and_eq_true, List.all_eq_true, Bool.or_eq_true, decide_eq_true_eq, indices, List.mem_range'_1]
  refine ⟨fun i hi => ?_, fun i hi j hj => ?_⟩
  · have hn : ∀ n, n < 128 → BitVec.ofNat 8 (1 + n) ≠ 0#8 := by
      intro n h e
      have := congrArg BitVec.toNat e
      simp at this
      omega
    have h1 := hn ((idx i).toNat / 128) (by have := (idx i).isLt; omega)
    have h2 := hn ((idx i).toNat % 128) (by omega)
    simp [entryOk, listW, h1, h2, WORD_BYTES]
  · by_cases e : i = j
    · exact .inl e
    · right
      intro h
      simp only [listW, List.cons.injEq, and_true, idx, BitVec.toNat_ofNat] at h
      have h1 := congrArg BitVec.toNat h.1
      have h2 := congrArg BitVec.toNat h.2
      have hi' : i < 0 + 1 * 2048 := by simpa [NWORDLIST] using hi.2
      have hj' : j < 0 + 1 * 2048 := by simpa [NWORDLIST] using hj.2
      simp at h1 h2
      omega

theorem witness_LookupEncodesTheWord :
    (23#5).toNat ≤ 23 ∧ 24 ≤ (24#5).toNat ∧ 24 ≤ (31#5).toNat ∧ base.fatal = false := by decide

/-- Entries of 1 and of 16 bytes. -/
theorem witness_WordatLeavesThePaddedEntry :
    (let W : Idx → List Byte := fun _ => [0x61#8]
     1 ≤ (W 0#11).length ∧ (W 0#11).length ≤ 16) ∧
    (let W : Idx → List Byte := fun _ => List.replicate 16 0x61#8
     1 ≤ (W 0#11).length ∧ (W 0#11).length ≤ 16) := by decide

/-- Beside `witness_wordlistOk`: a buffer whose LOOKUP completes OK, at the last slot. -/
theorem witness_WordListIsABijection :
    23 ≤ 23 ∧ (lookupOutcome listW 23 { base with wbuf := #v[0x01010000, 0, 0, 0] }).code = .ok := by decide +kernel

theorem witness_EntropyRegistersHoldTheString :
    (zeros 128).length = Size.words12.entW ∧ (zeros 256).length = Size.words24.entW ∧
    Size.words12.entW / 32 ≤ 4 ∧ Size.words24.entW / 32 ≤ 8 := by decide

theorem witness_HashedBytesAreTheRegisterBytes : 15 < Size.words12.entW / 8 ∧ 31 < Size.words24.entW / 8 := by decide

theorem witness_ChecksumIsTheHashsFirstBits : (zeros 128).length = 128 ∧ (zeros 256).length = 256 := by decide

/-- A candidate that matches, a checksum that agrees, and one that does not. -/
theorem witness_OnlyTheTopBitsOfTheLastIndexCanMatch :
    0 < 2 ^ Size.words12.addW ∧ (tryCombo .words12 ((pad12 3).pack 11) ((pad12 3).slot 11).idx 0).isSome = true ∧
    chk ((pad12 3).pack 11 ++ bin 7 (3 / 2 ^ 4)) 4 = bin 4 (3 % 2 ^ 4) ∧
    chk ((pad12 4).pack 11 ++ bin 7 (4 / 2 ^ 4)) 4 ≠ bin 4 (4 % 2 ^ 4) := by decide +kernel

/-- Both sizes; for 12 words a checksum that agrees and one that does not. -/
theorem witness_RecoverTakesTheEntropyOrFails :
    (pad12 3).fatal = false ∧ (pad12 3).HoldsMnemonic .words12 ∧ (pad24 102).HoldsMnemonic .words24 ∧
    chk (((pad12 3).pack 12).take 128) 4 = ((pad12 3).pack 12).drop 128 ∧
    (pad12 4).HoldsMnemonic .words12 ∧ chk (((pad12 4).pack 12).take 128) 4 ≠ ((pad12 4).pack 12).drop 128 := by
  decide +kernel

/-- The first two errors of RECOVER. -/
theorem witness_RecoverTakesTheEntropyOrFails_refusals :
    (after (exec .validate base)).err ≠ 0#4 ∧ (after (exec .validate ((pad12 0).putSlot 3 Slot.empty))).err ≠ 0#4 := by
  decide

/-- Index 3 changed to 2 (same suffix), to 23 (another suffix, accepted) and to 16 (another suffix). -/
theorem witness_ChangedLastWordIsCaughtByItsChecksum :
    (pad12 3).HoldsMnemonic .words12 ∧ (after (exec .recover (pad12 3))).err = 0#4 ∧
    ((pad12 3).slot 11).idx = 3#11 ∧ 2 / 2 ^ 4 = 3 / 2 ^ 4 ∧ 23 / 2 ^ 4 ≠ 3 / 2 ^ 4 ∧ 16 / 2 ^ 4 ≠ 3 / 2 ^ 4 := by
  decide +kernel

theorem witness_AccumXorsTheEntropyIn :
    base.slen = 0#2 ∧ ({ base with slen := 1#2, padcnt := 255#8 } : State).slen = base.size.slen := by decide

theorem witness_AccumXorsTheEntropyIn_otherLength :
    let s := { base with slen := 2#2 }
    s.fatal = false ∧ s.slen ≠ 0#2 ∧ s.slen ≠ s.size.slen := by decide

theorem witness_SessionHoldsTheCombination :
    base.fatal = false ∧ exec .clrsess base = .next (after (exec .clrsess base)) := ⟨rfl, rfl⟩

theorem witness_XorLaws : [true, false].length = 2 ∧ [true, true].length = 2 ∧ [false, true].length = 2 := by decide

theorem witness_AccumOrderDoesNotMatter : [same 1#32, same 2#32].Perm [same 2#32, same 1#32] := List.Perm.swap _ _ _

theorem witness_FinalizeWritesTheCombinedMnemonic :
    2 ≤ (2#8).toNat ∧ 2 ≤ (255#8).toNat ∧ ({ base with slen := 1#2 } : State).slen = Size.words12.slen ∧
    ({ base with slen := 2#2 } : State).slen = Size.words24.slen := by decide

theorem witness_FinalizeWritesTheCombinedMnemonic_tooFew :
    base.fatal = false ∧ base.padcnt.toNat < 2 ∧ ({ base with padcnt := 1#8 } : State).padcnt.toNat < 2 := by decide

theorem witness_EncodeOfRecoverIsTheMnemonic :
    (pad24 102).HoldsMnemonic .words24 ∧ (after (exec .recover (pad24 102))).err = 0#4 ∧
    exec .recover (pad24 102) = .next (after (exec .recover (pad24 102))) := by
  refine ⟨by decide, by decide +kernel, rfl⟩

/-- Two pads, the vectors V-RC-1 and V-RC-7. -/
theorem witness_TwoPadReconstruction :
    let c := after (exec .clrsess base)
    let p1 := after (exec .recover { c with mn := (pad12 3).mn, mnlen := BitVec.ofNat 8 12 })
    let a1 := after (exec .accum p1)
    let p2 := after (exec .recover { a1 with mn := (pad12 591).mn, mnlen := BitVec.ofNat 8 12 })
    p1.err = 0#4 ∧ a1.err = 0#4 ∧ p2.err = 0#4 := by decide +kernel

theorem witness_RegisterMap :
    (0x024#12).toNat % 4 = 0 ∧ unmappedOffset 0x024#12 = true ∧ unmappedOffset 0xFFC#12 = true ∧
    unmappedOffset 0x0DC#12 = false := by decide

/-- An idle block; STATUS under a pending command; the first and the last unmapped offset. -/
theorem witness_ReadReturnsTheRegister :
    base.rstN = true ∧ base.pend = none ∧ (0x0DC#12).toNat % 4 = 0 ∧ Reg.offset (.mn 23) = 0x0DC#12 ∧
    lockedForReads 0x008#12 = false ∧ unmappedOffset 0x024#12 = true ∧ unmappedOffset 0xFFC#12 = true := by decide

theorem witness_ReadReturnsTheRegister_draw :
    busy.rstN = true ∧ busy.pend ≠ none ∧ lockedForReads 0x010#12 = true ∧ lockedForReads 0x0DC#12 = true := by decide

theorem witness_LockedWritesAreDroppedWithOverrun :
    busy.rstN = true ∧ busy.pend ≠ none ∧ lockedForWrites 0x00C#12 = true ∧ lockedForWrites 0x0DC#12 = true ∧
    readOnlyOffset 0x000#12 = true ∧ readOnlyOffset 0x07C#12 = true ∧ unmappedOffset 0x024#12 = true ∧
    unmappedOffset 0xFFC#12 = true := by decide

theorem witness_OperandWriteIsReadBack :
    base.rstN = true ∧ base.pend = none ∧ lockedForWrites 0x018#12 = true ∧ lockedForWrites 0x0DC#12 = true ∧
    0x018#12 ≠ 0x00C#12 ∧ 0x0DC#12 ≠ 0x018#12 := by decide

theorem witness_OperandsStandWhileACommandIsPending :
    busy.pend ≠ none ∧ ¬ (0x004#12 = 0x004#12 ∧ (1#32).getLsbD 1 = true) ∧
    step (busy.arrives (.write 32 0x004#12 1#32)) = .next { busy with ie := true } ∧
    step (busy.arrives (.read 32 0x008#12)) = .next { busy with rdata := some busy.statusWord } := by
  refine ⟨by decide, by decide, rfl, rfl⟩

theorem witness_CtrlWrite : (2#32).getLsbD 1 = true ∧ (1#32).getLsbD 1 = false := by decide

theorem witness_OnlyBadAccessesAreRefused :
    (8 ≠ 32 ∨ (0x000#12).toNat % 4 ≠ 0) ∧ (32 ≠ 32 ∨ (0xFFE#12).toNat % 4 ≠ 0) ∧
    step (base.arrives (.read 8 0x000#12)) = .refused (.accessWidth 8) := by
  refine ⟨by decide, by decide, rfl⟩

theorem witness_InterruptFollowsDone :
    ({ base with ie := true } : State).ie = true ∧ (2#32).getLsbD 1 = true ∧ (0#32).getLsbD 0 = false ∧
    step (base.arrives (.write 32 0x008#12 2#32)) = .next base ∧
    step (base.arrives (.write 32 0x00C#12 7#32)) = .next (accept base 7#32) ∧
    step (base.arrives (.write 32 0x004#12 0#32)) = .next base := by
  refine ⟨rfl, by decide, by decide, rfl, rfl, rfl⟩

/-- The three ways ResetState speaks of, and the resets of the statements about DONE, OVR and SESSION. -/
theorem witness_ResetState :
    step (base.arrives (.write 32 0x004#12 2#32)) = .next State.reset ∧
    step (({ base with rstN := false } : State).arrives (.rstN true)) = .next State.reset ∧
    (base.arrives (.write 32 0x004#12 2#32)).ResetIsNext ∧ (base.arrives (.rstN false)).ResetIsNext := by
  refine ⟨rfl, rfl, .inl ⟨2#32, by decide, rfl⟩, .inr ⟨false, rfl⟩⟩

/-- DONE set by a completion, and cleared by an acceptance and by a STATUS write. -/
theorem witness_DoneMovesOnlyAtItsEvents :
    busy.TurnIsNext ∧ busy.done = false ∧ (after (step busy)).done = true ∧
    (let s := { base with done := true }
     (after (step (s.arrives (.write 32 0x00C#12 7#32)))).done = false ∧
     (after (step (s.arrives (.write 32 0x008#12 2#32)))).done = false) := by decide

/-- OVR set by a dropped write, and cleared by a STATUS write. -/
theorem witness_OverrunMovesOnlyAtItsEvents :
    busy.ovr = false ∧ (after (step (busy.arrives (.write 32 0x0DC#12 0#32)))).ovr = true ∧
    (after (step (({ busy with ovr := true } : State).arrives (.write 32 0x008#12 4#32)))).ovr = false := by decide

/-- ACC and SESSION changed by an ACCUM. -/
theorem witness_SessionChangesByItsCommandsAlone :
    let s := { base with ent := same 1#32, pend := some 0x00000008#32 }
    step s = .next (after (step s)) ∧ (after (step s)).acc ≠ s.acc ∧ (after (step s)).padcnt ≠ s.padcnt := by
  refine ⟨rfl, by decide, by decide⟩

theorem witness_HardwareReset :
    ({ base with rstN := false } : State).rstN = false ∧ (0x000#12).toNat % 4 = 0 ∧ (0xFFC#12).toNat % 4 = 0 := by decide

/-- A state other than the reset state that meets the invariant, and its next. -/
theorem witness_StepKeepsTheInvariant :
    BlockInv { State.reset with ie := true } ∧
    step { State.reset with ie := true } = .next { State.reset with ie := true } := by
  refine ⟨?_, rfl⟩
  constructor <;> simp

theorem witness_PendingCommandsComplete :
    ({ busy with inputs := [.read 32 0x008#12, .write 32 0xFFC#12 0#32, .sequencer, .rstN false] } : State).SafeInputs := by
  decide

end Sys2Proof.Machine.Tests
end

/-! What a reset leaves (spec/10_state.md R30, R47). `resetState t = t` says that `t` is a reset state: `resetState`
keeps the fields of the model's own and the level of RST_N, and no register shows those. -/

namespace Sys2Proof.Machine

/-! ### The steps that reset -/

/-- A write to CTRL with SRST = 1 is the soft reset (R138). -/
theorem step_softReset {s : State} {v : Word} (hrst : s.rstN = true) (hv : v.getLsbD 1 = true) :
    step (s.arrives (.write 32 0x004#12 v)) = .next (resetState s) := by
  have hwrite : hostWrite s 0x004#12 v = resetState s := if_pos hv
  calc step (s.arrives (.write 32 0x004#12 v))
      = hostAccess s 32 0x004#12 (hostWrite s 0x004#12 v) := step_arrives _ _
    _ = .next (if s.rstN then resetState s else s) := by rw [hwrite]; rfl
    _ = .next (resetState s) := by rw [if_pos hrst]

/-- The rise of RST_N leaves the reset state with the input released (R136). -/
theorem step_rstN_rise {s : State} (hrst : s.rstN = false) :
    step (s.arrives (.rstN true)) = .next { resetState s with rstN := true } := by
  simp [takeEvent, driveRstN, hrst]

/-! ### What the registers read in a reset state -/

/-- FATAL, the result of the integrity check, is the only bit of STATUS that a reset can leave set (R47, R137). -/
theorem resetState_statusWord (s : State) :
    (resetState s).statusWord = if wordlistOk Config.WORDLIST then 0x00000000#32 else 0x00000008#32 := by
  simp only [State.statusWord, State.busy, resetState_err, resetState_fatal, resetState_ovr, resetState_done,
    resetState_pend, reset_err, reset_fatal, reset_ovr, reset_done, reset_pend]
  cases wordlistOk Config.WORDLIST <;> rfl

/-- Every register but ID and STATUS reads 0 after a reset (R30). -/
theorem resetState_regWord (s : State) {r : Reg} (hid : r ≠ .id) (hstatus : r ≠ .status) :
    (resetState s).regWord r = 0x00000000#32 := by
  cases r with
  | id => exact absurd rfl hid
  | status => exact absurd rfl hstatus
  | cmd | result => rfl
  | ctrl | entcfg => simp [State.regWord, State.ctrlWord, State.entcfgWord]
  | invmask | mnlen | session => simp [State.regWord, State.invmaskWord, State.mnlenWord, State.sessionWord]
  | wbuf k | ent k | acc k => simp [State.regWord]
  | mn i => simp [State.regWord, Slot.empty, Slot.word]

/-- Settles O51: each of the three ways ends in a state that `resetState` leaves as it is. (`resetState` itself
names the model's reset.) -/
theorem resetState_holds : Obligations.ResetState := by
  intro t ht
  have hreset : resetState t = t := by
    rcases ht with rfl | ⟨s, v, hrst, hv, hstep⟩ | ⟨s, hrst, hstep⟩
    · rfl
    · rw [step_softReset hrst hv] at hstep
      cases hstep
      rfl
    · rw [step_rstN_rise hrst] at hstep
      cases hstep
      rfl
  rw [← hreset]
  exact ⟨resetState_pend t, rfl, resetState_statusWord t, fun _ hid hstatus => resetState_regWord t hid hstatus⟩

end Sys2Proof.Machine

/-! The host's side of the register window: which accesses a step refuses, and which host addresses reach an offset
(spec/20_memory.md R48, R52). -/

namespace Sys2Proof.Machine

/-! ### Refused accesses -/

/-- A host access outside the block's interface: not 32 bits wide, or at an offset that is no multiple of 4 (R52). -/
def Event.OutsideInterface (e : Event) : Prop :=
  (∃ w off, e = .read w off ∧ (w ≠ 32 ∨ off.toNat % 4 ≠ 0)) ∨
   ∃ w off v, e = .write w off v ∧ (w ≠ 32 ∨ off.toNat % 4 ≠ 0)

/-- The next input is an access outside the interface. -/
def State.BadAccessIsNext (s : State) : Prop :=
  ∃ e rest, s.inputs = e :: rest ∧ e.OutsideInterface

@[simp] theorem outsideInterface_read (w : Nat) (off : Offset) :
    (Event.read w off).OutsideInterface ↔ w ≠ 32 ∨ off.toNat % 4 ≠ 0 := by
  simp [Event.OutsideInterface]

@[simp] theorem outsideInterface_write (w : Nat) (off : Offset) (v : Word) :
    (Event.write w off v).OutsideInterface ↔ w ≠ 32 ∨ off.toNat % 4 ≠ 0 := by
  simp [Event.OutsideInterface]

@[simp] theorem not_outsideInterface_sequencer : ¬ Event.sequencer.OutsideInterface := by
  simp [Event.OutsideInterface]

@[simp] theorem not_outsideInterface_rstN (level : Bool) : ¬ (Event.rstN level).OutsideInterface := by
  simp [Event.OutsideInterface]

/-- The outcome `o` is a refusal when `bad` holds and a next state when it does not; it is never a fault. -/
def RefusedExactlyWhen (bad : Prop) (o : Host.Outcome State Fault Refusal) : Prop :=
  (bad ∧ ∃ r, o = .refused r) ∨ (¬ bad ∧ ∃ t, o = .next t)

theorem RefusedExactlyWhen.refused_iff {bad : Prop} {o : Host.Outcome State Fault Refusal}
    (h : RefusedExactlyWhen bad o) : (∃ r, o = .refused r) ↔ bad := by
  rcases h with ⟨hbad, hrefused⟩ | ⟨hgood, t, rfl⟩
  · exact iff_of_true hrefused hbad
  · exact iff_of_false (fun ⟨_, h⟩ => nomatch h) hgood

theorem RefusedExactlyWhen.next_of_not {bad : Prop} {o : Host.Outcome State Fault Refusal}
    (h : RefusedExactlyWhen bad o) (hgood : ¬ bad) : ∃ t, o = .next t := by
  rcases h with ⟨hbad, _⟩ | ⟨_, hnext⟩
  · exact absurd hbad hgood
  · exact hnext

theorem hostAccess_refusedExactlyWhen (s t : State) (w : Nat) (off : Offset) :
    RefusedExactlyWhen (w ≠ 32 ∨ off.toNat % 4 ≠ 0) (hostAccess s w off t) := by
  rcases hostAccess_cases s t w off with ⟨r, hrefusal, hr⟩ | ⟨hw, hoff, hnext⟩
  · have hsome : accessRefusal w off ≠ none := by simp [hrefusal]
    have hbad : w ≠ 32 ∨ off.toNat % 4 ≠ 0 := by
      rw [Ne, accessRefusal_eq_none] at hsome
      omega
    exact .inl ⟨hbad, r, hr⟩
  · exact .inr ⟨by omega, _, hnext⟩

/-- The sequencer's turn always goes on: idle, or in a completion (R116, R135). -/
theorem sequencerTurn_next (s : State) : ∃ t, sequencerTurn s = .next t := by
  rcases sequencerTurn_cases s with ⟨_, hidle⟩ | ⟨_, i, _, _, hrun⟩ | ⟨_, _, _, _, hillegal⟩
  · exact ⟨s, hidle⟩
  · obtain ⟨o, ho⟩ := exec_eq_finish i s
    exact ⟨finish s o, hrun.trans ho⟩
  · exact ⟨_, hillegal.trans (illegalCommand_eq s)⟩

theorem takeEvent_refusedExactlyWhen (e : Event) (s : State) :
    RefusedExactlyWhen e.OutsideInterface (takeEvent e s) := by
  cases e with
  | read w off =>
    rw [outsideInterface_read]
    exact hostAccess_refusedExactlyWhen s _ w off
  | write w off v =>
    rw [outsideInterface_write]
    exact hostAccess_refusedExactlyWhen s _ w off
  | sequencer => exact .inr ⟨not_outsideInterface_sequencer, sequencerTurn_next s⟩
  | rstN level => exact .inr ⟨not_outsideInterface_rstN level, _, rfl⟩

theorem badAccessIsNext_of_input {s : State} {e : Event} {rest : List Event} (h : s.inputs = e :: rest) :
    s.BadAccessIsNext ↔ e.OutsideInterface := by
  simp [State.BadAccessIsNext, h]

theorem not_badAccessIsNext_of_no_input {s : State} (h : s.inputs = []) : ¬ s.BadAccessIsNext := by
  simp [State.BadAccessIsNext, h]

theorem step_refusedExactlyWhen (s : State) : RefusedExactlyWhen s.BadAccessIsNext (step s) := by
  rcases step_cases s with ⟨hnone, hstep⟩ | ⟨e, rest, hinput, hstep⟩
  · rw [hstep]
    exact .inr ⟨not_badAccessIsNext_of_no_input hnone, sequencerTurn_next s⟩
  · rw [hstep, badAccessIsNext_of_input hinput]
    exact takeEvent_refusedExactlyWhen e _

/-- Settles O49: a step is the sequencer's turn, which always goes on, or takes an input, and of these only a host
access can refuse. -/
theorem onlyBadAccessesAreRefused : Obligations.OnlyBadAccessesAreRefused := fun s =>
  ⟨(step_refusedExactlyWhen s).refused_iff, (step_refusedExactlyWhen s).next_of_not⟩

/-! ### Host addresses -/

/-- The window is aligned to its own size, so the low 12 bits of an address are its offset (R48). -/
theorem base_mod : Config.BASE % 4096 = 0 := Nat.mul_mod_right 4096 Config.basePage

theorem windowOffset_eq_some {addr : Nat} {off : Offset} :
    windowOffset addr = some off ↔
      (Config.BASE ≤ addr ∧ addr < Config.BASE + 4096) ∧ addr % 4096 = off.toNat := by
  simp [windowOffset, ← BitVec.toNat_inj]

/-- Settles O42: an address in the window is BASE plus its low 12 bits. -/
theorem windowAddresses : Obligations.WindowAddresses := by
  refine ⟨base_mod, fun addr off => ?_⟩
  have hbase := base_mod
  have hoff := off.isLt
  rw [windowOffset_eq_some]
  constructor
  · rintro ⟨⟨hlow, hhigh⟩, hmod⟩
    omega
  · intro haddr
    exact ⟨by omega, by omega⟩

end Sys2Proof.Machine

/-! The command word (spec/30_encoding.md R66 to R72): its fields, the rows a word selects, which words are legal, and
the acceptance of a command. The facts about legality are one per range of OP, and `opField_cases` says that the ranges
are all. -/

namespace Sys2Proof

/-! ### The word as its fields -/

/-- Concatenations of fields of one layout are equal field by field. -/
theorem append_eq_append_iff {n m : Nat} {a a' : BitVec n} {b b' : BitVec m} :
    a ++ b = a' ++ b' ↔ a = a' ∧ b = b' := by
  constructor
  · intro h
    have hleft := congrArg (BitVec.extractLsb' m n) h
    have hright := congrArg (BitVec.extractLsb' 0 m) h
    rw [extractLsb'_append_left, extractLsb'_append_left] at hleft
    rw [extractLsb'_append_right, extractLsb'_append_right] at hright
    exact ⟨hleft, hright⟩
  · rintro ⟨rfl, rfl⟩
    rfl

/-- The layout of a LOOKUP word (R68). -/
theorem word_eq_lookupFields (c : Word) : c = aboveSlot c ++ slotField c ++ opField c := by
  have hfields : aboveSlot c ++ slotField c = c.extractLsb' 8 24 :=
    BitVec.extractLsb'_append_extractLsb'_eq_extractLsb' rfl
  have hword : c.extractLsb' 8 24 ++ opField c = c.extractLsb' 0 32 :=
    BitVec.extractLsb'_append_extractLsb'_eq_extractLsb' rfl
  rw [hfields, hword, BitVec.extractLsb'_eq_self]

/-- The layout of a WORDAT word (R68). -/
theorem word_eq_wordatFields (c : Word) : c = aboveImm11 c ++ imm11Field c ++ belowImm11 c ++ opField c := by
  have hhigh : aboveImm11 c ++ imm11Field c = c.extractLsb' 16 16 :=
    BitVec.extractLsb'_append_extractLsb'_eq_extractLsb' rfl
  have hfields : c.extractLsb' 16 16 ++ belowImm11 c = c.extractLsb' 8 24 :=
    BitVec.extractLsb'_append_extractLsb'_eq_extractLsb' rfl
  have hword : c.extractLsb' 8 24 ++ opField c = c.extractLsb' 0 32 :=
    BitVec.extractLsb'_append_extractLsb'_eq_extractLsb' rfl
  rw [hhigh, hfields, hword, BitVec.extractLsb'_eq_self]

/-- The layout of a word with no operand (R68). -/
theorem word_eq_plainFields (c : Word) : c = aboveOp c ++ opField c := by
  have hword : aboveOp c ++ opField c = c.extractLsb' 0 32 :=
    BitVec.extractLsb'_append_extractLsb'_eq_extractLsb' rfl
  rw [hword, BitVec.extractLsb'_eq_self]

/-! ### The rows of R69 -/

/-- LOOKUP's row masks SLOT out. -/
theorem and_lookupMask_iff (c : Word) :
    c &&& 0xFFFFE0FF#32 = 0x00000001#32 ↔ opField c = 0x01#8 ∧ aboveSlot c = 0#19 := by
  have hmask : 0xFFFFE0FF#32 = BitVec.allOnes 19 ++ 0#5 ++ BitVec.allOnes 8 := by decide
  have hmatch : 0x00000001#32 = 0#19 ++ 0#5 ++ 0x01#8 := by decide
  have hmasked : c &&& 0xFFFFE0FF#32 = aboveSlot c ++ 0#5 ++ opField c := by
    calc c &&& 0xFFFFE0FF#32
        = (aboveSlot c ++ slotField c ++ opField c) &&& (BitVec.allOnes 19 ++ 0#5 ++ BitVec.allOnes 8) := by
          rw [← word_eq_lookupFields, hmask]
      _ = aboveSlot c ++ 0#5 ++ opField c := by
          simp only [BitVec.and_append, BitVec.and_allOnes, BitVec.and_zero]
  rw [hmasked, hmatch, append_eq_append_iff, append_eq_append_iff]
  simp [and_comm]

/-- WORDAT's row masks IMM11 out. -/
theorem and_wordatMask_iff (c : Word) :
    c &&& 0xF800FFFF#32 = 0x00000002#32 ↔ opField c = 0x02#8 ∧ aboveImm11 c = 0#5 ∧ belowImm11 c = 0#8 := by
  have hmask : 0xF800FFFF#32 = BitVec.allOnes 5 ++ 0#11 ++ BitVec.allOnes 8 ++ BitVec.allOnes 8 := by decide
  have hmatch : 0x00000002#32 = 0#5 ++ 0#11 ++ 0#8 ++ 0x02#8 := by decide
  have hmasked : c &&& 0xF800FFFF#32 = aboveImm11 c ++ 0#11 ++ belowImm11 c ++ opField c := by
    calc c &&& 0xF800FFFF#32
        = (aboveImm11 c ++ imm11Field c ++ belowImm11 c ++ opField c) &&&
            (BitVec.allOnes 5 ++ 0#11 ++ BitVec.allOnes 8 ++ BitVec.allOnes 8) := by
          rw [← word_eq_wordatFields, hmask]
      _ = aboveImm11 c ++ 0#11 ++ belowImm11 c ++ opField c := by
          simp only [BitVec.and_append, BitVec.and_allOnes, BitVec.and_zero]
  rw [hmasked, hmatch, append_eq_append_iff, append_eq_append_iff, append_eq_append_iff]
  simp [and_comm]

/-- The seven rows with no operand mask nothing out. -/
theorem and_plainMask_iff (c : Word) (op : BitVec 8) :
    c &&& 0xFFFFFFFF#32 = 0#24 ++ op ↔ opField c = op ∧ aboveOp c = 0#24 := by
  have hmasked : c &&& 0xFFFFFFFF#32 = aboveOp c ++ opField c :=
    BitVec.and_allOnes.trans (word_eq_plainFields c)
  rw [hmasked, append_eq_append_iff, and_comm]

theorem selects_lookupRow (c : Word) (name : String) :
    selects c ⟨name, 0x00000001#32, 0xFFFFE0FF#32, true⟩ = true ↔
      opField c = 0x01#8 ∧ aboveSlot c = 0#19 ∧ (slotField c).toNat ≤ 23 := by
  simp [selects, and_lookupMask_iff, and_assoc]

theorem selects_wordatRow (c : Word) (name : String) :
    selects c ⟨name, 0x00000002#32, 0xF800FFFF#32, false⟩ = true ↔
      opField c = 0x02#8 ∧ aboveImm11 c = 0#5 ∧ belowImm11 c = 0#8 := by
  simp [selects, and_wordatMask_iff]

/-- A row that matches `m`, an OP value below zeros, with the full mask. -/
theorem selects_plainRow (c : Word) (name : String) {m : Word} (hm : 0#24 ++ m.setWidth 8 = m) :
    selects c ⟨name, m, 0xFFFFFFFF#32, false⟩ = true ↔ opField c = m.setWidth 8 ∧ aboveOp c = 0#24 := by
  rw [← and_plainMask_iff, hm]
  simp [selects]

theorem op_between_three_and_nine_iff (op : BitVec 8) :
    (3 ≤ op.toNat ∧ op.toNat ≤ 9) ↔
      op = 3#8 ∨ op = 4#8 ∨ op = 5#8 ∨ op = 6#8 ∨ op = 7#8 ∨ op = 8#8 ∨ op = 9#8 := by
  bv_omega

/-- What `legal_iff` says of the fields of a legal word, and `exists_row_selects_iff` of a word that selects a row. -/
def HasLegalFields (c : Word) : Prop :=
  (opField c = 0x01#8 ∧ aboveSlot c = 0#19 ∧ (slotField c).toNat ≤ 23) ∨
  (opField c = 0x02#8 ∧ aboveImm11 c = 0#5 ∧ belowImm11 c = 0#8) ∨
  ((3 ≤ (opField c).toNat ∧ (opField c).toNat ≤ 9) ∧ aboveOp c = 0#24)

/-- The words some row selects, by their fields. -/
theorem exists_row_selects_iff (c : Word) :
    (∃ r ∈ opRows, selects c r = true) ↔ HasLegalFields c := by
  rw [HasLegalFields, op_between_three_and_nine_iff]
  simp only [or_and_right]
  simp [opRows, selects_lookupRow, selects_wordatRow, selects_plainRow]

/-! ### Legality (R70), one fact per range of OP -/

/-- The ranges of OP that R70 tells apart. -/
theorem opField_cases (c : Word) :
    (opField c = 0x00#8 ∨ 0x0A ≤ (opField c).toNat) ∨ opField c = 0x01#8 ∨ opField c = 0x02#8 ∨
      (3 ≤ (opField c).toNat ∧ (opField c).toNat ≤ 9) := by
  bv_omega

theorem legal_of_unknownOp {c : Word} (h : opField c = 0x00#8 ∨ 0x0A ≤ (opField c).toNat) : legal c = false := by
  have h1 : (opField c).toNat ≠ 1 := by bv_omega
  have h2 : (opField c).toNat ≠ 2 := by bv_omega
  have hplain : ¬ (3 ≤ (opField c).toNat ∧ (opField c).toNat ≤ 9) := by bv_omega
  simp [legal, h1, h2, hplain]

theorem legal_of_lookup {c : Word} (h : opField c = 0x01#8) :
    legal c = true ↔ aboveSlot c = 0#19 ∧ (slotField c).toNat ≤ 23 := by
  simp [legal, h]

theorem legal_of_wordat {c : Word} (h : opField c = 0x02#8) :
    legal c = true ↔ aboveImm11 c = 0#5 ∧ belowImm11 c = 0#8 := by
  simp [legal, h]

theorem legal_of_plain {c : Word} (h : 3 ≤ (opField c).toNat ∧ (opField c).toNat ≤ 9) :
    legal c = true ↔ aboveOp c = 0#24 := by
  have h1 : (opField c).toNat ≠ 1 := by omega
  have h2 : (opField c).toNat ≠ 2 := by omega
  simp [legal, h1, h2, h]

/-- The legal words, by their fields. -/
theorem legal_iff (c : Word) : legal c = true ↔ HasLegalFields c := by
  unfold HasLegalFields
  rcases opField_cases c with h | h | h | h
  · exact iff_of_false (by simp [legal_of_unknownOp h]) (by bv_omega)
  · simp [legal_of_lookup h, h]
  · simp [legal_of_wordat h, h]
  · have h1 : opField c ≠ 0x01#8 := by bv_omega
    have h2 : opField c ≠ 0x02#8 := by bv_omega
    simp [legal_of_plain h, h1, h2, h]

/-- Settles O2: the legal words and the words that select a row are the same by their fields. -/
theorem legalWordsSelectARow : Obligations.LegalWordsSelectARow := fun c =>
  (legal_iff c).trans (exists_row_selects_iff c).symm

/-- The words R71 lists are those that `legal_iff` leaves out. -/
theorem legal_eq_false_iff (c : Word) :
    legal c = false ↔
      (opField c = 0x00#8 ∨ 0x0A ≤ (opField c).toNat ∨
        (opField c = 0x01#8 ∧ (aboveSlot c ≠ 0#19 ∨ 24 ≤ (slotField c).toNat)) ∨
        (opField c = 0x02#8 ∧ (aboveImm11 c ≠ 0#5 ∨ belowImm11 c ≠ 0#8)) ∨
        (3 ≤ (opField c).toNat ∧ (opField c).toNat ≤ 9 ∧ aboveOp c ≠ 0#24)) := by
  rw [← Bool.not_eq_true, legal_iff, HasLegalFields]
  bv_omega

/-! ### The decoder (R68 to R71), one fact per range of OP -/

theorem decode_of_unknownOp {c : Word} (h : opField c = 0x00#8 ∨ 0x0A ≤ (opField c).toNat) :
    decode c = .error (.unknownOpcode (opField c)) := by
  have h0 : (opField c).toNat = 0 ∨ 0x0A ≤ (opField c).toNat := h.imp_left (congrArg BitVec.toNat)
  unfold decode
  split
  case h_10 => rfl
  all_goals omega

theorem decode_of_lookup {c : Word} (h : opField c = 0x01#8) :
    decode c =
      if aboveSlot c = 0#19 then
        if (slotField c).toNat ≤ 23 then .ok (.lookup (slotField c)) else .error (.slotOutOfRange (slotField c))
      else .error .nonzeroField := by
  simp [decode, h]

theorem decode_of_wordat {c : Word} (h : opField c = 0x02#8) :
    decode c =
      if aboveImm11 c = 0#5 ∧ belowImm11 c = 0#8 then .ok (.wordat (imm11Field c)) else .error .nonzeroField := by
  simp [decode, h]

theorem decode_of_plain {c : Word} (h : 3 ≤ (opField c).toNat ∧ (opField c).toNat ≤ 9) :
    ∃ i, decode c = decodePlain c i := by
  rcases (op_between_three_and_nine_iff _).1 h with h | h | h | h | h | h | h
  · exact ⟨.validate, by simp [decode, h]⟩
  · exact ⟨.checksum, by simp [decode, h]⟩
  · exact ⟨.recover, by simp [decode, h]⟩
  · exact ⟨.encode, by simp [decode, h]⟩
  · exact ⟨.clrsess, by simp [decode, h]⟩
  · exact ⟨.accum, by simp [decode, h]⟩
  · exact ⟨.finalize, by simp [decode, h]⟩

/-- The decoder refuses every word that `legal_iff` leaves out. -/
theorem exists_decode_eq_error {c : Word} (hc : legal c = false) : ∃ e, decode c = .error e := by
  rw [← Bool.not_eq_true] at hc
  rcases opField_cases c with h | h | h | h
  · exact ⟨_, decode_of_unknownOp h⟩
  · rw [legal_of_lookup h] at hc
    rw [decode_of_lookup h]
    by_cases habove : aboveSlot c = 0#19
    · exact ⟨_, by rw [if_pos habove, if_neg fun hslot => hc ⟨habove, hslot⟩]⟩
    · exact ⟨_, if_neg habove⟩
  · rw [legal_of_wordat h] at hc
    exact ⟨_, (decode_of_wordat h).trans (if_neg hc)⟩
  · rw [legal_of_plain h] at hc
    obtain ⟨i, hi⟩ := decode_of_plain h
    exact ⟨_, hi.trans (if_neg hc)⟩

end Sys2Proof

namespace Sys2Proof.Machine

/-! ### Acceptance (R72, R142) and the completion of an illegal command (R71) -/

/-- The host's write to CMD is accepted when nothing is pending and sets OVR when a command is (R72, R142). -/
theorem step_cmdWrite {s : State} (c : Word) (hrst : s.rstN = true) :
    step (s.arrives (.write 32 0x00C#12 c)) = .next (if s.busy then { s with ovr := true } else accept s c) := by
  calc step (s.arrives (.write 32 0x00C#12 c))
      = hostAccess s 32 0x00C#12 (hostWrite s 0x00C#12 c) := step_arrives _ _
    _ = .next (if s.rstN then hostWrite s 0x00C#12 c else s) := rfl
    _ = .next (hostWrite s 0x00C#12 c) := by rw [if_pos hrst]
    _ = .next (if s.busy then { s with ovr := true } else accept s c) := rfl

theorem step_cmdWrite_accepted {s : State} (c : Word) (hrst : s.rstN = true) (hpend : s.pend = none) :
    step (s.arrives (.write 32 0x00C#12 c)) = .next (accept s c) := by
  rw [step_cmdWrite c hrst]
  simp [State.busy, hpend]

theorem step_cmdWrite_overrun {s : State} (c : Word) (hrst : s.rstN = true) (hpend : s.pend ≠ none) :
    step (s.arrives (.write 32 0x00C#12 c)) = .next { s with ovr := true } := by
  rw [step_cmdWrite c hrst]
  simp [State.busy, Option.isSome_iff_ne_none, hpend]

/-- Settles O5: the two cases of a CMD write. -/
theorem commandIsAcceptedAtOnce : Obligations.CommandIsAcceptedAtOnce := fun _ c hrst =>
  ⟨step_cmdWrite_accepted c hrst, step_cmdWrite_overrun c hrst⟩

/-- A pending illegal word completes as the illegal command (R73). -/
theorem sequencerTurn_of_not_legal {s : State} {c : Word} (hpend : s.pend = some c) (hc : legal c = false) :
    sequencerTurn s = illegalCommand s := by
  obtain ⟨e, he⟩ := exists_decode_eq_error hc
  simp [sequencerTurn, hpend, he]

/-- Settles O7: R71's list is what legality leaves out, and the decoder refuses those words. -/
theorem illegalCommandOnlyCompletes : Obligations.IllegalCommandOnlyCompletes := by
  refine ⟨legal_eq_false_iff, fun s c hc hfatal hrst hpend => ⟨step_cmdWrite_accepted c hrst hpend, ?_⟩⟩
  calc sequencerTurn (accept s c)
      = illegalCommand (accept s c) := sequencerTurn_of_not_legal (accept_pend s c) hc
    _ = .next ((accept s c).completedAs 8#4) := by rw [illegalCommand_eq, accept_fatal, hfatal]; rfl

end Sys2Proof.Machine

/-! The word list and its two commands (spec/40_wordlist.md R78, R82, R83): what the integrity check says of the entries,
which buffers hold no padded entry, and how LOOKUP and WORDAT complete. -/

namespace Sys2Proof.Machine

/-! ### The integrity predicate (R78) -/

theorem mem_indices {n : Nat} : n ∈ indices ↔ n < 2048 := by
  simp [indices, NWORDLIST, List.mem_range'_1]

theorem toNat_idx {n : Nat} (hn : n ∈ indices) : (idx n).toNat = n := by
  rw [idx, BitVec.toNat_ofNat]
  exact Nat.mod_eq_of_lt (mem_indices.1 hn)

theorem idx_inj {m n : Nat} (hm : m ∈ indices) (hn : n ∈ indices) : idx m = idx n ↔ m = n := by
  rw [← BitVec.toNat_inj, toNat_idx hm, toNat_idx hn]

/-- The numbers 0 to 2047 are all the word indices. -/
theorem forall_mem_indices {p : Idx → Prop} : (∀ n ∈ indices, p (idx n)) ↔ ∀ i, p i := by
  constructor
  · intro h i
    have hi := h i.toNat (mem_indices.2 i.isLt)
    rwa [idx, BitVec.ofNat_toNat, BitVec.setWidth_eq] at hi
  · exact fun h n _ => h (idx n)

theorem entryOk_iff (w : List Byte) :
    entryOk w = true ↔ 1 ≤ w.length ∧ w.length ≤ 16 ∧ ∀ b ∈ w, b ≠ 0x00#8 := by
  simp [entryOk, WORD_BYTES, and_assoc]

/-- The check of the pairs, which compares every two positions, says that the entries are distinct. -/
theorem pairsDistinct_iff (W : Idx → List Byte) :
    (∀ m ∈ indices, ∀ n ∈ indices, m = n ∨ W (idx m) ≠ W (idx n)) ↔ ∀ i j, i ≠ j → W i ≠ W j := by
  calc (∀ m ∈ indices, ∀ n ∈ indices, m = n ∨ W (idx m) ≠ W (idx n))
      ↔ ∀ m ∈ indices, ∀ n ∈ indices, idx m ≠ idx n → W (idx m) ≠ W (idx n) :=
        forall₂_congr fun m hm => forall₂_congr fun n hn => by rw [← idx_inj hm hn, or_iff_not_imp_left]
    _ ↔ ∀ m ∈ indices, ∀ j, idx m ≠ j → W (idx m) ≠ W j :=
        forall₂_congr fun m _ => forall_mem_indices (p := fun j => idx m ≠ j → W (idx m) ≠ W j)
    _ ↔ ∀ i j, i ≠ j → W i ≠ W j :=
        forall_mem_indices (p := fun i => ∀ j, i ≠ j → W i ≠ W j)

theorem wordlistOk_iff (W : Idx → List Byte) :
    wordlistOk W = true ↔
      (∀ i, 1 ≤ (W i).length ∧ (W i).length ≤ 16 ∧ ∀ b ∈ W i, b ≠ 0x00#8) ∧ ∀ i j, i ≠ j → W i ≠ W j := by
  have hentries : (∀ n ∈ indices, entryOk (W (idx n)) = true) ↔
      ∀ i, 1 ≤ (W i).length ∧ (W i).length ≤ 16 ∧ ∀ b ∈ W i, b ≠ 0x00#8 :=
    (forall_mem_indices (p := fun i => entryOk (W i) = true)).trans (forall_congr' fun i => entryOk_iff (W i))
  unfold wordlistOk
  simp only [Bool.and_eq_true, List.all_eq_true, Bool.or_eq_true, decide_eq_true_eq]
  rw [hentries, pairsDistinct_iff]

/-- Settles O14: `wordlistOk` checks the entries and the pairs at every index, and the reset state stores its negation. -/
theorem wordListIntegrityPredicate : Obligations.WordListIntegrityPredicate :=
  ⟨wordlistOk_iff, reset_fatal⟩

/-! ### Buffers that hold no padded entry (R79, R80, R82) -/

/-- What `index_of` finds is an index whose padded entry is the buffer (R80). -/
theorem pad16_of_indexOf_eq_some {W : Idx → List Byte} {b : List Byte} {i : Idx} (h : indexOf W b = some i) :
    pad16 (W i) = b := by
  obtain ⟨n, hfind, rfl⟩ := Option.map_eq_some_iff.1 h
  simpa using List.find?_some hfind

/-- Padding adds zero bytes, which is what `byteAt` reads past the end. -/
@[simp] theorem byteAt_pad16 (w : List Byte) (j : Nat) : byteAt (pad16 w) j = byteAt w j := by
  rcases Nat.lt_or_ge j w.length with hj | hj
  · exact List.getD_append w _ 0#8 j hj
  · rw [byteAt, pad16, List.getD_append_right _ _ _ _ hj, List.getD_eq_getElem?_getD,
      List.getElem?_getD_replicate_default_eq, byteAt, List.getD_eq_default _ _ hj]

/-- A byte string with no zero byte reads 0 exactly past its end. -/
theorem byteAt_eq_zero_iff {w : List Byte} (hw : ∀ b ∈ w, b ≠ 0x00#8) {j : Nat} :
    byteAt w j = 0x00#8 ↔ w.length ≤ j := by
  refine ⟨fun hzero => ?_, fun hj => List.getD_eq_default _ _ hj⟩
  by_contra hj
  have hlt : j < w.length := Nat.lt_of_not_le hj
  rw [byteAt, List.getD_eq_getElem _ _ hlt] at hzero
  exact hw _ (List.getElem_mem hlt) hzero

/-- In the padded entries of a list that passes the check the zero bytes are the padding: they stand neither first nor
before a nonzero byte (R82). -/
theorem indexOf_eq_none_of_misplacedZero {W : Idx → List Byte} {b : List Byte} (hW : wordlistOk W = true)
    (hb : byteAt b 0 = 0x00#8 ∨ ∃ j k, j < k ∧ byteAt b j = 0x00#8 ∧ byteAt b k ≠ 0x00#8) :
    indexOf W b = none := by
  rw [Option.eq_none_iff_forall_ne_some]
  intro i hfound
  obtain ⟨hnonempty, -, hbytes⟩ := ((wordlistOk_iff W).1 hW).1 i
  rw [← pad16_of_indexOf_eq_some hfound] at hb
  simp only [byteAt_pad16, Ne, byteAt_eq_zero_iff hbytes] at hb
  rcases hb with hfirst | ⟨j, k, hjk, hj, hk⟩ <;> omega

/-! ### The completion of a pending word (R73, R119) -/

theorem exec_of_fatal (i : Instr) {s : State} (hfatal : s.fatal = true) : exec i s = .next (s.completedAs 7#4) := by
  obtain ⟨o, ho⟩ := exec_eq_finish i s
  rw [ho, finish_of_fatal o hfatal]

theorem sequencerTurn_of_decode {s : State} {c : Word} {i : Instr} (hpend : s.pend = some c)
    (hdecode : decode c = .ok i) : sequencerTurn s = exec i s := by
  simp [sequencerTurn, hpend, hdecode]

/-- With a bad word list every pending word, legal or not, completes with WORDLIST_INTEGRITY (R119). -/
theorem sequencerTurn_of_fatal {s : State} {c : Word} (hpend : s.pend = some c) (hfatal : s.fatal = true) :
    sequencerTurn s = .next (s.completedAs 7#4) := by
  rcases sequencerTurn_cases s with ⟨hnone, _⟩ | ⟨_, i, _, _, hrun⟩ | ⟨_, _, _, _, hillegal⟩
  · simp [hpend] at hnone
  · rw [hrun, exec_of_fatal i hfatal]
  · rw [hillegal, illegalCommand_eq, hfatal]
    rfl

/-- With a sound word list a pending illegal word completes with ILLEGAL_COMMAND (R119). -/
theorem sequencerTurn_illegal {s : State} {c : Word} (hpend : s.pend = some c) (hfatal : s.fatal = false)
    (hc : legal c = false) : sequencerTurn s = .next (s.completedAs 8#4) := by
  rw [sequencerTurn_of_not_legal hpend hc, illegalCommand_eq, hfatal]
  rfl

/-! ### LOOKUP (R82) -/

theorem legal_lookup_eq_false {c : Word} (hop : opField c = 0x01#8)
    (hfields : aboveSlot c ≠ 0#19 ∨ 24 ≤ (slotField c).toNat) : legal c = false :=
  (legal_eq_false_iff c).2 (.inr (.inr (.inl ⟨hop, hfields⟩)))

theorem decode_lookup {c : Word} (hop : opField c = 0x01#8) (habove : aboveSlot c = 0#19)
    (hslot : (slotField c).toNat ≤ 23) : decode c = .ok (.lookup (slotField c)) := by
  rw [decode_of_lookup hop, if_pos habove, if_pos hslot]

/-- The word of a valid slot, FOUND in bit 31 and the index in bits 10:0, as the sum that R82 writes. -/
theorem foundResult_eq (r : Idx) : foundResult r = 0x80000000#32 + r.setWidth 32 := by
  have hfound : 0x80000000#32 = (1#1 ++ 0#20) ++ 0#11 := by decide
  have hindex : r.setWidth 32 = 0#21 ++ r := BitVec.setWidth_eq_append (by decide)
  have hdisjoint : 0x80000000#32 &&& r.setWidth 32 = 0#32 := by
    rw [hfound, hindex, BitVec.and_append, BitVec.and_zero, BitVec.zero_and]
    rfl
  rw [BitVec.add_eq_or_of_and_eq_zero _ _ hdisjoint, hfound, hindex, BitVec.or_append, BitVec.or_zero, BitVec.zero_or]
  rfl

/-- With a sound word list LOOKUP of one of the 24 slots commits its own outcome. -/
theorem exec_lookup {slot : BitVec 5} {s : State} (hslot : slot.toNat ≤ 23) (hfatal : s.fatal = false) :
    exec (.lookup slot) s =
      .next ((lookupOutcome Config.WORDLIST slot.toNat s).writes.completedAs
        (lookupOutcome Config.WORDLIST slot.toNat s).code.bits) := by
  rw [← finish_of_not_fatal _ hfatal]
  exact if_pos hslot

theorem lookupOutcome_of_notFound {W : Idx → List Byte} {s : State} (slot : Nat)
    (h : indexOf W s.wbufBytes = none) :
    lookupOutcome W slot s = raise .invalidWord { s.putSlot slot Slot.empty with result := 0#32 } := by
  simp [lookupOutcome, h]

theorem lookupOutcome_of_found {W : Idx → List Byte} {s : State} {r : Idx} (slot : Nat)
    (h : indexOf W s.wbufBytes = some r) :
    lookupOutcome W slot s =
      complete { s.putSlot slot (Slot.valid r) with result := 0x80000000#32 + r.setWidth 32 } := by
  simp [lookupOutcome, h, foundResult_eq]

/-- Settles O16: the words of LOOKUP by legality and the decoder, its two outcomes by what `index_of` answers, and the
buffers never found by where their zero bytes stand. -/
theorem lookupEncodesTheWord : Obligations.LookupEncodesTheWord := by
  refine ⟨fun s c hpend hop => ⟨sequencerTurn_of_fatal hpend, fun hfatal hfields => ?_, fun habove hslot => ?_⟩,
    fun slot s hslot hfatal => ?_, fun W s hW hb => indexOf_eq_none_of_misplacedZero hW hb⟩
  · exact sequencerTurn_illegal hpend hfatal (legal_lookup_eq_false hop hfields)
  · exact sequencerTurn_of_decode hpend (decode_lookup hop habove hslot)
  · rw [exec_lookup hslot hfatal]
    cases hfind : indexOf Config.WORDLIST s.wbufBytes with
    | none => rw [lookupOutcome_of_notFound _ hfind]; rfl
    | some r => rw [lookupOutcome_of_found _ hfind]; rfl

/-! ### WORDAT (R83) -/

theorem legal_wordat_eq_false {c : Word} (hop : opField c = 0x02#8)
    (hfields : aboveImm11 c ≠ 0#5 ∨ belowImm11 c ≠ 0#8) : legal c = false :=
  (legal_eq_false_iff c).2 (.inr (.inr (.inr (.inl ⟨hop, hfields⟩))))

theorem decode_wordat {c : Word} (hop : opField c = 0x02#8) (habove : aboveImm11 c = 0#5)
    (hbelow : belowImm11 c = 0#8) : decode c = .ok (.wordat (imm11Field c)) := by
  rw [decode_of_wordat hop, if_pos ⟨habove, hbelow⟩]

/-- With a sound word list WORDAT completes OK with the padded entry and its length. -/
theorem exec_wordat (i : Idx) {s : State} (hfatal : s.fatal = false) :
    exec (.wordat i) s =
      .next ({ s.putWbuf (pad16 (Config.WORDLIST i)) with
        result := BitVec.ofNat 32 (Config.WORDLIST i).length }.completedAs 0#4) :=
  congrArg Host.Outcome.next (finish_of_not_fatal (wordatOutcome Config.WORDLIST i s) hfatal)

/-- Settles O17: the words of WORDAT by legality and the decoder, and its one outcome. -/
theorem wordatDecodesTheIndex : Obligations.WordatDecodesTheIndex := by
  refine ⟨fun s c hpend hop => ⟨sequencerTurn_of_fatal hpend, fun hfatal hfields => ?_, fun habove hbelow => ?_⟩,
    fun i s hfatal => ⟨_, exec_wordat i hfatal, fun k => ?_, rfl⟩⟩
  · exact sequencerTurn_illegal hpend hfatal (legal_wordat_eq_false hop hfields)
  · exact sequencerTurn_of_decode hpend (decode_wordat hop habove hbelow)
  · rw [completedAs_wbuf, putWbuf_wbuf]
    exact Vector.getElem_ofFn k.isLt

end Sys2Proof.Machine

/-! CHECKSUM (spec/41_codec.md R87, R91, R93) and the words of a command with no operand (spec/30_encoding.md R68, R70):
the registers of ENT as the bytes that are hashed, and the checksum as the front of the hash's first byte. -/

namespace Sys2Proof.Machine

/-! ### The words of a command with no operand (R68, R70, R119) -/

theorem legal_plain_eq_false {c : Word} (hop : 3 ≤ (opField c).toNat ∧ (opField c).toNat ≤ 9)
    (habove : aboveOp c ≠ 0#24) : legal c = false := by
  rw [← Bool.not_eq_true, legal_of_plain hop]
  exact habove

theorem plainCommand_of_decode {op : BitVec 8} {i : Instr} (hop : 3 ≤ op.toNat ∧ op.toNat ≤ 9)
    (hdecode : ∀ c, opField c = op → decode c = decodePlain c i) : PlainCommand op i := by
  rintro s c hpend rfl
  refine ⟨sequencerTurn_of_fatal hpend, fun hfatal habove => ?_, fun habove => ?_⟩
  · exact sequencerTurn_illegal hpend hfatal (legal_plain_eq_false hop habove)
  · exact sequencerTurn_of_decode hpend ((hdecode c rfl).trans (if_pos habove))

theorem decode_of_checksum {c : Word} (hop : opField c = 0x04#8) : decode c = decodePlain c .checksum := by
  simp [decode, hop]

/-! ### Registers as bytes (R55, R56, R87) -/

@[simp] theorem bytesBits_nil : bytesBits [] = [] := rfl

@[simp] theorem bytesBits_cons (b : Byte) (bs : List Byte) : bytesBits (b :: bs) = bin 8 b.toNat ++ bytesBits bs := rfl

theorem bytesBits_append (bs bs' : List Byte) : bytesBits (bs ++ bs') = bytesBits bs ++ bytesBits bs' :=
  List.flatMap_append

/-- The first eight bits of a string are its first byte (R87). -/
theorem bitsBytes_append_of_length_eight {a : Bits} (ha : a.length = 8) (e : Bits) :
    bitsBytes (a ++ e) = BitVec.ofNat 8 (val a) :: bitsBytes e := by
  have hcount : (a ++ e).length / 8 = e.length / 8 + 1 := by rw [List.length_append]; omega
  have hslice (j : Nat) : slice (a ++ e) (8 * (j + 1)) 8 = slice e (8 * j) 8 := by
    rw [slice, slice, show 8 * (j + 1) = a.length + 8 * j by omega, List.drop_length_add_append]
  rw [bitsBytes, bitsBytes, hcount, List.range_succ_eq_map, List.map_cons, List.map_map, Nat.mul_zero,
    slice_zero_append ha]
  exact congrArg (_ :: ·) (List.map_congr_left fun j _ => by rw [Function.comp_apply, hslice])

/-- The bytes of the bit string of a byte string are that byte string, leading zero bytes included (R87). -/
@[simp] theorem bitsBytes_bytesBits (bs : List Byte) : bitsBytes (bytesBits bs) = bs := by
  induction bs with
  | nil => rfl
  | cons b bs ih =>
    have hbyte : BitVec.ofNat 8 (val (bin 8 b.toNat)) = b := by
      rw [val_bin, Nat.mod_eq_of_lt b.isLt, BitVec.ofNat_toNat, BitVec.setWidth_eq]
    rw [bytesBits_cons, bitsBytes_append_of_length_eight (length_bin 8 _), ih, hbyte]

/-- A byte of a register as a string: the eight bits from bit `i` up. -/
theorem bin_toNat_extractLsb' (w : Word) (i : Nat) : bin 8 (w.extractLsb' i 8).toNat = bin 8 (w.toNat / 2 ^ i) := by
  rw [BitVec.extractLsb'_toNat, Nat.shiftRight_eq_div_pow, bin_mod]

/-- The 32 bits of a register are those of its four bytes in the order of R56. -/
theorem wordBits_eq_bytesBits (w : Word) : wordBits w = bytesBits (wordBytes w) := by
  calc wordBits w
      = bin 8 (w.toNat / 2 ^ 24) ++ (bin 8 (w.toNat / 2 ^ 16) ++ (bin 8 (w.toNat / 2 ^ 8) ++ bin 8 w.toNat)) := by
        rw [← bin_add, ← bin_add, ← bin_add, wordBits]
    _ = bytesBits (wordBytes w) := by
        simp only [wordBytes, bytesBits_cons, bin_toNat_extractLsb', bytesBits_nil, List.append_nil,
          Nat.pow_zero, Nat.div_one]

theorem regBits_eq_bytesBits (ws : List Word) : regBits ws = bytesBits (ws.flatMap wordBytes) := by
  induction ws with
  | nil => rfl
  | cons w ws ih =>
    rw [regBits_cons, ih, wordBits_eq_bytesBits, List.flatMap_cons, bytesBits_append]

/-- The bytes that are hashed are those of the registers of ENT that the size selects (R87). -/
theorem bitsBytes_entbits (s : State) (z : Size) :
    bitsBytes (s.entbits z) = (s.ent.toList.take (z.entW / 32)).flatMap wordBytes := by
  rw [State.entbits, fileBits, regBits_eq_bytesBits, bitsBytes_bytesBits]

/-! ### The checksum from the hash's first byte (R91) -/

/-- The hash is a first byte and others. -/
theorem bytesBits_sha256 (m : List Byte) :
    ∃ rest, bytesBits (sha256 m) = bin 8 (byteAt (sha256 m) 0).toNat ++ rest := by
  obtain ⟨b, bs, hbytes⟩ := List.exists_cons_of_length_eq_add_one (length_sha256 m)
  exact ⟨bytesBits bs, by rw [hbytes]; rfl⟩

/-- Eight checksum bits are the hash's first byte (R91). -/
theorem chk_eight (e : Bits) : chk e 8 = bin 8 (byteAt (sha256 (bitsBytes e)) 0).toNat := by
  obtain ⟨rest, hbits⟩ := bytesBits_sha256 (bitsBytes e)
  rw [chk, hbits, slice_zero_append (length_bin 8 _)]

/-- Four checksum bits are the high nibble of the hash's first byte (R91). -/
theorem chk_four (e : Bits) : chk e 4 = bin 4 ((byteAt (sha256 (bitsBytes e)) 0).toNat / 16) := by
  obtain ⟨rest, hbits⟩ := bytesBits_sha256 (bitsBytes e)
  have hnibbles (v : Nat) : bin 8 v = bin 4 (v / 16) ++ bin 4 v := bin_add 4 4 v
  rw [chk, hbits, hnibbles, List.append_assoc, slice_zero_append (length_bin 4 _)]

theorem val_chk_eight (e : Bits) : val (chk e 8) = (byteAt (sha256 (bitsBytes e)) 0).toNat := by
  rw [chk_eight, val_bin, Nat.mod_eq_of_lt (BitVec.isLt _)]

theorem val_chk_four (e : Bits) : val (chk e 4) = (byteAt (sha256 (bitsBytes e)) 0).toNat / 16 := by
  rw [chk_four, val_bin, Nat.mod_eq_of_lt (Nat.div_lt_of_lt_mul (BitVec.isLt _))]

/-! ### CHECKSUM (R93) -/

theorem entChecksum_of_elen_false {s : State} (helen : s.elen = false) :
    s.entChecksum = chk (s.entbits .words12) 4 := by
  rw [State.entChecksum, State.size, helen]; rfl

theorem entChecksum_of_elen_true {s : State} (helen : s.elen = true) :
    s.entChecksum = chk (s.entbits .words24) 8 := by
  rw [State.entChecksum, State.size, helen]; rfl

/-- The value of the checksum of ENT: the first byte of the hash with ELEN = 1, its high nibble with ELEN = 0. -/
theorem val_entChecksum (s : State) :
    val s.entChecksum =
      if s.elen then (byteAt (sha256 (s.ent.toList.flatMap wordBytes)) 0).toNat
      else (byteAt (sha256 ((s.ent.toList.take 4).flatMap wordBytes)) 0).toNat / 16 := by
  have hregs12 : Size.words12.entW / 32 = 4 := rfl
  have hregs24 : s.ent.toList.take (Size.words24.entW / 32) = s.ent.toList :=
    List.take_of_length_le (by simp [Size.entW])
  cases helen : s.elen with
  | false =>
    rw [entChecksum_of_elen_false helen, val_chk_four, bitsBytes_entbits, hregs12, if_neg Bool.false_ne_true]
  | true => rw [entChecksum_of_elen_true helen, val_chk_eight, bitsBytes_entbits, hregs24, if_pos rfl]

/-- With a sound word list CHECKSUM completes OK with the value of the checksum of ENT. -/
theorem exec_checksum {s : State} (hfatal : s.fatal = false) :
    exec .checksum s = .next ({ s with result := BitVec.ofNat 32 (val s.entChecksum) }.completedAs 0#4) :=
  congrArg Host.Outcome.next (finish_of_not_fatal (checksumOutcome s) hfatal)

/-- Settles O25: the words of CHECKSUM by the decoder, and its one outcome by the first byte of the hash. -/
theorem checksumHashesTheEntropy : Obligations.ChecksumHashesTheEntropy := by
  refine ⟨plainCommand_of_decode (by decide) fun _ => decode_of_checksum, fun s hfatal => ?_⟩
  rw [exec_checksum hfatal, val_entChecksum]

end Sys2Proof.Machine

/-! VALIDATE and RECOVER (spec/42_pad_recoverer.md R95 to R100): the mask of the invalid slots bit by bit, how the two
commands agree where validation fails, the one candidate of the search that can match, and the registers RECOVER
leaves. -/

namespace Sys2Proof.Machine

theorem decode_of_validate {c : Word} (hop : opField c = 0x03#8) : decode c = decodePlain c .validate := by
  simp [decode, hop]

theorem decode_of_recover {c : Word} (hop : opField c = 0x05#8) : decode c = decodePlain c .recover := by
  simp [decode, hop]

/-! ### The mask of the invalid slots (R95) -/

@[simp] theorem invalidSlots_zero (s : State) : s.invalidSlots 0 = 0#24 := rfl

theorem invalidSlots_succ (s : State) (n : Nat) :
    s.invalidSlots (n + 1) =
      if (s.slot n).v then s.invalidSlots n else s.invalidSlots n ||| (1#24 <<< n) := by
  simp [State.invalidSlots, List.range_succ]

/-- Bit `i` of the mask is set exactly for a slot below the count with V = 0. -/
theorem getLsbD_invalidSlots (s : State) (n : Nat) {i : Nat} (hi : i < 24) :
    (s.invalidSlots n).getLsbD i = (decide (i < n) && !(s.slot i).v) := by
  induction n with
  | zero => simp
  | succ n ih =>
    have hbit : (1#24 <<< n).getLsbD i = decide (i = n) := by
      rw [BitVec.getLsbD_shiftLeft, BitVec.getLsbD_one]
      grind
    rw [invalidSlots_succ]
    by_cases hin : i = n
    · subst hin
      cases hv : (s.slot i).v <;> simp [ih, hbit]
    · have hlt : i < n + 1 ↔ i < n := by omega
      cases (s.slot n).v <;> simp [ih, hbit, hin, hlt]

theorem invalidSlots_eq_zero {s : State} {n : Nat} (hv : ∀ i < n, (s.slot i).v = true) :
    s.invalidSlots n = 0#24 := by
  refine BitVec.eq_of_getLsbD_eq fun i hi => ?_
  rw [getLsbD_invalidSlots s n hi, BitVec.getLsbD_zero]
  by_cases hlt : i < n
  · simp [hv i hlt]
  · simp [hlt]

/-! ### VALIDATE (R95, R96) -/

/-- A valid mnemonic passes the validation with its own size (R95). -/
theorem validate_of_holdsMnemonic {s : State} {z : Size} (h : s.HoldsMnemonic z) : validate s = .valid z := by
  obtain ⟨hcount, hv⟩ := h
  simp [validate, size_ofCount_eq_some.2 hcount, invalidSlots_eq_zero hv]

theorem exec_validate {s : State} (hfatal : s.fatal = false) :
    exec .validate s = .next ((validateOutcome s).writes.completedAs (validateOutcome s).code.bits) :=
  congrArg Host.Outcome.next (finish_of_not_fatal _ hfatal)

theorem validateOutcome_of_valid {s : State} {z : Size} (h : validate s = .valid z) :
    validateOutcome s = complete { s with result := 0#32, invmask := 0#24 } := by
  simp [validateOutcome, h]

theorem validateOutcome_of_invalidWordCount {s : State} (h : validate s = .invalidWordCount) :
    validateOutcome s = raise .invalidWordCount { s with result := 0#32, invmask := 0#24 } := by
  simp [validateOutcome, h]

theorem validateOutcome_of_invalidWords {s : State} {m : BitVec 24} (h : validate s = .invalidWords m) :
    validateOutcome s = raise .invalidWords { s with result := 0#32, invmask := m } := by
  simp [validateOutcome, h]

/-- The two word counts (R2), as values of MNLEN. -/
theorem not_badCount_of_toNat_eq {m : BitVec 8} {z : Size} (h : m.toNat = z.nWords) :
    ¬ (m ≠ 12#8 ∧ m ≠ 24#8) := by
  cases z <;> simp only [Size.nWords] at h <;> bv_omega

/-- Settles O26: the words of VALIDATE by the decoder, and its outcomes by the three answers of `validate()`, with the
mask of the slots below MNLEN whatever MNLEN is. -/
theorem validateReportsCountThenWords : Obligations.ValidateReportsCountThenWords := by
  refine ⟨plainCommand_of_decode (by decide) fun _ => decode_of_validate, fun s hfatal =>
    ⟨s.invalidSlots s.mnlen.toNat, fun i hi => getLsbD_invalidSlots s _ hi, ?_⟩⟩
  rw [exec_validate hfatal]
  rcases validate_cases s with
    ⟨hvalidate, h12, h24⟩ | ⟨z, hcount, ⟨hvalidate, hmask⟩ | ⟨hvalidate, hmask⟩⟩
  · have hbad : s.mnlen ≠ 12#8 ∧ s.mnlen ≠ 24#8 := by bv_omega
    rw [validateOutcome_of_invalidWordCount hvalidate, if_pos hbad]
    rfl
  · rw [validateOutcome_of_valid hvalidate, if_neg (not_badCount_of_toNat_eq hcount), hcount, if_pos hmask]
    rfl
  · rw [validateOutcome_of_invalidWords hvalidate, if_neg (not_badCount_of_toNat_eq hcount), hcount, if_neg hmask]
    rfl

/-! ### The packed indices as entropy and checksum (R85, R94) -/

theorem Size.addW_add_csW (z : Size) : z.addW + z.csW = 11 := by
  cases z <;> rfl

/-- The words before the last and the suffix of the last one are the entropy bits (R94). -/
theorem Size.entW_eq (z : Size) : z.entW = 11 * (z.nWords - 1) + z.addW := by
  cases z <;> rfl

/-- The suffix of the last word: the value of the top bits of its index, which are entropy bits (R94). -/
def State.lastSuffix (s : State) (z : Size) : Nat := (s.slot (z.nWords - 1)).idx.toNat / 2 ^ z.csW

theorem lastSuffix_lt (s : State) (z : Size) : s.lastSuffix z < 2 ^ z.addW := by
  refine Nat.div_lt_of_lt_mul ?_
  rw [← Nat.pow_add, Nat.add_comm, z.addW_add_csW]
  exact BitVec.isLt _

/-- The last index as its suffix bits followed by its checksum bits. -/
theorem bin_lastIdx (s : State) (z : Size) :
    bin IDXW (s.slot (z.nWords - 1)).idx.toNat =
      bin z.addW (s.lastSuffix z) ++ bin z.csW (s.slot (z.nWords - 1)).idx.toNat := by
  rw [State.lastSuffix, ← bin_add, z.addW_add_csW]

theorem pack_nWords (s : State) (z : Size) :
    s.pack z.nWords =
      (s.pack (z.nWords - 1) ++ bin z.addW (s.lastSuffix z)) ++ bin z.csW (s.slot (z.nWords - 1)).idx.toNat := by
  have hlast : z.nWords = z.nWords - 1 + 1 := by cases z <;> rfl
  calc s.pack z.nWords
      = s.pack (z.nWords - 1) ++ bin IDXW (s.slot (z.nWords - 1)).idx.toNat := by
        rw [← pack_succ, ← hlast]
    _ = _ := by rw [bin_lastIdx, List.append_assoc]

theorem length_pack_append_suffix (s : State) (z : Size) (combo : Nat) :
    (s.pack (z.nWords - 1) ++ bin z.addW combo).length = z.entW := by
  rw [List.length_append, length_pack, length_bin, z.entW_eq]

theorem take_pack_nWords (s : State) (z : Size) :
    (s.pack z.nWords).take z.entW = s.pack (z.nWords - 1) ++ bin z.addW (s.lastSuffix z) := by
  rw [pack_nWords, List.take_left' (length_pack_append_suffix s z _)]

theorem drop_pack_nWords (s : State) (z : Size) :
    (s.pack z.nWords).drop z.entW = bin z.csW (s.slot (z.nWords - 1)).idx.toNat := by
  rw [pack_nWords, List.drop_left' (length_pack_append_suffix s z _)]

theorem length_take_pack_nWords (s : State) (z : Size) : ((s.pack z.nWords).take z.entW).length = z.entW := by
  rw [take_pack_nWords, length_pack_append_suffix]

/-- The suffix of the last word is the value of the last entropy bits. -/
theorem val_drop_take_pack_nWords (s : State) (z : Size) :
    val (((s.pack z.nWords).take z.entW).drop (z.entW - z.addW)) = s.lastSuffix z := by
  have hlength : (s.pack (z.nWords - 1)).length = z.entW - z.addW := by
    rw [length_pack, z.entW_eq, Nat.add_sub_cancel_right]
  rw [take_pack_nWords, List.drop_left' hlength, val_bin, Nat.mod_eq_of_lt (lastSuffix_lt s z)]

/-! ### The search (R97, R98) -/

/-- The answer of the search when the checksum of the first L bits is the bits that follow. -/
def State.directFound (s : State) (z : Size) : Found :=
  { combo := s.lastSuffix z
    cs := (s.pack z.nWords).drop z.entW
    cand := (s.pack z.nWords).take z.entW }

/-- A candidate matches only as the suffix of the last word, and does so exactly when its checksum is the rest of the
last word (R98). -/
theorem tryCombo_lastWord_eq_some_iff {s : State} {z : Size} {combo : Nat} {f : Found}
    (hcombo : combo < 2 ^ z.addW) :
    tryCombo z (s.pack (z.nWords - 1)) (s.slot (z.nWords - 1)).idx combo = some f ↔
      combo = s.lastSuffix z ∧
      chk ((s.pack z.nWords).take z.entW) z.csW = (s.pack z.nWords).drop z.entW ∧ f = s.directFound z := by
  rw [tryCombo_eq_some, bin_lastIdx, State.directFound, take_pack_nWords, drop_pack_nWords]
  constructor
  · rintro ⟨hword, rfl⟩
    obtain ⟨hsuffix, hchk⟩ := List.append_inj hword (by simp)
    obtain rfl := bin_inj hcombo (lastSuffix_lt s z) hsuffix
    exact ⟨rfl, hchk, by rw [hchk]⟩
  · rintro ⟨rfl, hchk, rfl⟩
    exact ⟨by rw [hchk], by rw [hchk]⟩

/-- What the search answers, by the checksum of the first L bits. -/
theorem search_eq_some_iff {s : State} {z : Size} {f : Found} :
    search s z = some f ↔
      chk ((s.pack z.nWords).take z.entW) z.csW = (s.pack z.nWords).drop z.entW ∧ f = s.directFound z := by
  constructor
  · intro hsearch
    obtain ⟨combo, hlt, htry⟩ := search_eq_some hsearch
    exact ((tryCombo_lastWord_eq_some_iff hlt).1 htry).2
  · rintro ⟨hchk, rfl⟩
    have htry := (tryCombo_lastWord_eq_some_iff (lastSuffix_lt s z)).2 ⟨rfl, hchk, rfl⟩
    cases hsearch : search s z with
    | none =>
      have hnone := List.findSome?_eq_none_iff.1 hsearch _ (List.mem_range.2 (lastSuffix_lt s z))
      simp [htry] at hnone
    | some g =>
      obtain ⟨combo, hlt, hg⟩ := search_eq_some hsearch
      rw [((tryCombo_lastWord_eq_some_iff hlt).1 hg).2.2]

theorem search_eq_none {s : State} {z : Size}
    (hchk : chk ((s.pack z.nWords).take z.entW) z.csW ≠ (s.pack z.nWords).drop z.entW) : search s z = none :=
  Option.eq_none_iff_forall_ne_some.2 fun _ hsearch => hchk (search_eq_some_iff.1 hsearch).1

/-! ### The entropy registers (R19) -/

theorem regBits_append (ws ws' : List Word) : regBits (ws ++ ws') = regBits ws ++ regBits ws' :=
  List.flatMap_append

/-- The registers that hold the consecutive 32-bit slices of a string read back as the front of that string. -/
theorem regBits_slices {e : Bits} {n : Nat} (hn : 32 * n ≤ e.length) :
    regBits ((List.range n).map fun k => bitsWord (slice e (32 * k) 32)) = e.take (32 * n) := by
  induction n with
  | zero => rfl
  | succ n ih =>
    have hslice : (slice e (32 * n) 32).length = 32 := by rw [length_slice]; omega
    rw [List.range_succ, List.map_append, regBits_append, ih (by omega), List.map_singleton, regBits_cons,
      wordBits_bitsWord hslice, regBits_nil, List.append_nil, slice, ← List.take_add, Nat.mul_succ]

theorem take_toList_bitsFile {e : Bits} {n : Nat} (hn : 32 * n ≤ e.length) (h8 : n ≤ 8) :
    (bitsFile e).toList.take n = (List.range n).map fun k => bitsWord (slice e (32 * k) 32) := by
  apply List.ext_getElem
  · simp [h8]
  · intro k hk _
    have hlt : k < n := by simp at hk; omega
    simp only [List.getElem_take, Vector.getElem_toList, List.getElem_map, List.getElem_range]
    rw [bitsFile_getElem e (by omega), if_pos (by omega)]

/-- `put_ent` writes what `entbits` reads back (R19, R41). -/
theorem entbits_putEnt (s : State) {z : Size} {e : Bits} (he : e.length = z.entW) : (s.putEnt e).entbits z = e := by
  have hregs : 32 * (z.entW / 32) = e.length := by rw [he]; cases z <;> rfl
  have h8 : z.entW / 32 ≤ 8 := by cases z <;> decide
  rw [State.entbits, fileBits, putEnt_ent, take_toList_bitsFile hregs.le h8, regBits_slices hregs.le, hregs,
    List.take_length]

/-- The registers past the string are 0 (R19). -/
theorem entWord_putEnt_of_le (s : State) {z : Size} {e : Bits} (he : e.length = z.entW) {k : Nat}
    (hk : z.entW / 32 ≤ k) : (s.putEnt e).entWord k = 0#32 := by
  rcases Nat.lt_or_ge k 8 with h8 | h8
  · have hend : ¬ 32 * k < e.length := by
      rw [he]
      cases z <;> simp only [Size.entW] at hk ⊢ <;> omega
    rw [entWord_of_lt _ h8]
    exact (bitsFile_getElem e h8).trans (if_neg hend)
  · exact getD_toList_of_le _ _ h8

/-! ### RECOVER (R100) -/

theorem exec_recover {s : State} (hfatal : s.fatal = false) :
    exec .recover s = .next ((recoverOutcome s).writes.completedAs (recoverOutcome s).code.bits) :=
  congrArg Host.Outcome.next (finish_of_not_fatal _ hfatal)

/-- Where the validation fails RECOVER is VALIDATE. -/
theorem recoverOutcome_eq_validateOutcome {s : State} (h : ∀ z, validate s ≠ .valid z) :
    recoverOutcome s = validateOutcome s := by
  cases hvalidate : validate s with
  | valid z => exact absurd hvalidate (h z)
  | invalidWordCount => rw [validateOutcome_of_invalidWordCount hvalidate]; simp [recoverOutcome, hvalidate]
  | invalidWords m => rw [validateOutcome_of_invalidWords hvalidate]; simp [recoverOutcome, hvalidate]

theorem recoverOutcome_of_noMatch {s : State} {z : Size} (hvalidate : validate s = .valid z)
    (hsearch : search s z = none) :
    recoverOutcome s = raise .checksumRecoveryFailed { s with result := 0#32, invmask := 0#24 } := by
  simp [recoverOutcome, hvalidate, hsearch]

theorem recoverOutcome_of_found {s : State} {z : Size} {f : Found} (hvalidate : validate s = .valid z)
    (hsearch : search s z = some f) :
    recoverOutcome s =
      complete { s.putEnt f.cand with elen := z.elen, result := recoverResult f.cs f.combo, invmask := 0#24 } := by
  simp [recoverOutcome, hvalidate, hsearch]

/-- A VALIDATE that completes with an error is one whose validation failed. -/
theorem validate_ne_valid_of_err {s t : State} (hfatal : s.fatal = false) (hexec : exec .validate s = .next t)
    (herr : t.err ≠ 0#4) (z : Size) : validate s ≠ .valid z := by
  intro hvalidate
  rw [exec_validate hfatal, validateOutcome_of_valid hvalidate] at hexec
  cases hexec
  exact herr rfl

/-- Settles O29: RECOVER is VALIDATE where the validation fails; on a valid mnemonic the search answers exactly when the
checksum of the first L bits is the bits that follow, and ENT reads back the string that `put_ent` wrote. -/
theorem recoverTakesTheEntropyOrFails : Obligations.RecoverTakesTheEntropyOrFails := by
  refine ⟨plainCommand_of_decode (by decide) fun _ => decode_of_recover, fun s t hfatal hexec herr => ?_,
    fun s z hfatal hholds => ⟨fun hchk => ?_, fun hchk => ?_⟩⟩
  · rw [exec_recover hfatal, recoverOutcome_eq_validateOutcome (validate_ne_valid_of_err hfatal hexec herr),
      ← exec_validate hfatal, hexec]
  · have hlength := length_take_pack_nWords s z
    rw [exec_recover hfatal,
      recoverOutcome_of_found (validate_of_holdsMnemonic hholds) (search_eq_some_iff.2 ⟨hchk, rfl⟩),
      val_drop_take_pack_nWords]
    exact ⟨_, rfl, entbits_putEnt s hlength, fun k hk => entWord_putEnt_of_le s hlength hk, rfl⟩
  · rw [exec_recover hfatal, recoverOutcome_of_noMatch (validate_of_holdsMnemonic hholds) (search_eq_none hchk)]
    rfl

end Sys2Proof.Machine

/-! CLRSESS and ACCUM, the XOR combiner (spec/43_xor_combiner.md R104 to R106): the pad count that stays at 255, the
registers of ACC after one XOR, and the session each command leaves. -/

namespace Sys2Proof.Machine

theorem decode_of_clrsess {c : Word} (hop : opField c = 0x07#8) : decode c = decodePlain c .clrsess := by
  simp [decode, hop]

theorem decode_of_accum {c : Word} (hop : opField c = 0x08#8) : decode c = decodePlain c .accum := by
  simp [decode, hop]

/-! ### CLRSESS (R105) -/

theorem exec_clrsess {s : State} (hfatal : s.fatal = false) :
    exec .clrsess s = .next
      ({ s with acc := Vector.replicate 8 0#32, padcnt := 0#8, slen := 0#2, result := 0#32 }.completedAs 0#4) :=
  congrArg Host.Outcome.next (finish_of_not_fatal (clrsessOutcome s) hfatal)

/-- Settles O31: the words of CLRSESS by the decoder, and its one outcome. -/
theorem clrsessEmptiesTheSession : Obligations.ClrsessEmptiesTheSession :=
  ⟨plainCommand_of_decode (by decide) fun _ => decode_of_clrsess, fun _ hfatal => exec_clrsess hfatal⟩

/-! ### The registers an ACCUM writes (R106) -/

theorem toNat_padcntNext (p : BitVec 8) : (padcntNext p).toNat = min (p.toNat + 1) 255 := by
  rw [padcntNext, BitVec.toNat_ofNat, Nat.mod_eq_of_lt (by omega)]

/-- RESULT of an ACCUM is PADCNT: eight bits fit the register. -/
theorem toNat_setWidth_padcntNext (p : BitVec 8) : ((padcntNext p).setWidth 32).toNat = (padcntNext p).toNat :=
  BitVec.toNat_setWidth_of_le (by decide)

/-- A register of ACC as it reads once the XOR is written back. -/
theorem accWord_of_acc_eq_xorAcc {s t : State} {z : Size} (hacc : t.acc = s.xorAcc z) {k : Nat} (hk : k < 8) :
    t.accWord k = if k < z.entW / 32 then s.accWord k ^^^ s.entWord k else s.accWord k := by
  simp only [accWord_of_lt _ hk, entWord_of_lt _ hk, hacc, xorAcc_getElem]

/-! ### ACCUM (R106) -/

/-- Into an empty session, or one of its own length, a pad is XORed and counted. -/
theorem exec_accum_of_fits {s : State} (hfatal : s.fatal = false) (hfits : s.slen = 0#2 ∨ s.slen = s.size.slen) :
    exec .accum s = .next
      ({ s with
          acc := s.xorAcc s.size, slen := s.size.slen, padcnt := padcntNext s.padcnt,
          result := (padcntNext s.padcnt).setWidth 32 }.completedAs 0#4) := by
  have houtcome : accumOutcome s = complete _ := if_neg fun ⟨hsession, hother⟩ => hfits.elim hsession hother
  exact congrArg Host.Outcome.next ((finish_of_not_fatal _ hfatal).trans (by rw [houtcome]; rfl))

/-- A pad of another length than the session's is refused. -/
theorem exec_accum_of_otherLength {s : State} (hfatal : s.fatal = false) (hsession : s.slen ≠ 0#2)
    (hother : s.slen ≠ s.size.slen) :
    exec .accum s = .next ({ s with result := 0#32 }.completedAs 4#4) := by
  have houtcome : accumOutcome s = raise _ _ := if_pos ⟨hsession, hother⟩
  exact congrArg Host.Outcome.next ((finish_of_not_fatal _ hfatal).trans (by rw [houtcome]; rfl))

/-- Settles O32: the words of ACCUM by the decoder, and its two outcomes by the length of the pad against the
session's. -/
theorem accumXorsTheEntropyIn : Obligations.AccumXorsTheEntropyIn := by
  refine ⟨plainCommand_of_decode (by decide) fun _ => decode_of_accum, fun s hfatal hfits => ?_,
    fun _ => exec_accum_of_otherLength⟩
  exact ⟨_, exec_accum_of_fits hfatal hfits, fun k hk => accWord_of_acc_eq_xorAcc rfl hk, toNat_padcntNext s.padcnt,
    toNat_setWidth_padcntNext s.padcnt, rfl⟩

end Sys2Proof.Machine

/-! ENCODE and FINALIZE (spec/44_seed_reconstructor.md R110 to R112): the slots an emitted mnemonic leaves pack to the
entropy and its checksum, and the registers of ACC reach ENT through the string they hold. -/

namespace Sys2Proof.Machine

theorem decode_of_encode {c : Word} (hop : opField c = 0x06#8) : decode c = decodePlain c .encode := by
  simp [decode, hop]

theorem decode_of_finalize {c : Word} (hop : opField c = 0x09#8) : decode c = decodePlain c .finalize := by
  simp [decode, hop]

/-! ### The indices of a string, packed again (R85, R86) -/

/-- A string of 11 bits is read back from the index that holds it. -/
theorem bin_idx_val {a : Bits} (ha : a.length = 11) : bin IDXW (idx (val a)).toNat = a := by
  rw [idx, BitVec.toNat_ofNat, bin_mod, bin_val_of_length ha]

theorem split_getD {f : Bits} {j : Nat} (hj : 11 * (j + 1) ≤ f.length) :
    (split f).getD j 0#11 = idx (val (slice f (11 * j) 11)) := by
  have hlt : j < (split f).length := by rw [length_split]; omega
  rw [List.getD_eq_getElem _ _ hlt]
  simp [split, IDXW]

/-- Slots that hold the consecutive groups of a string pack to the front of that string. -/
theorem pack_eq_take {s : State} {f : Bits} {n : Nat} (hn : 11 * n ≤ f.length)
    (hslots : ∀ i < n, (s.slot i).idx = (split f).getD i 0#11) : s.pack n = f.take (11 * n) := by
  induction n with
  | zero => rfl
  | succ n ih =>
    have hgroup : (slice f (11 * n) 11).length = 11 := by rw [length_slice]; omega
    rw [pack_succ, ih (by omega) fun i hi => hslots i (by omega), hslots n (by omega), split_getD hn,
      bin_idx_val hgroup, slice, ← List.take_add, Nat.mul_succ]

/-! ### The emitted mnemonic (R110) -/

theorem Size.nWords_le (z : Size) : z.nWords ≤ 24 := by
  cases z <;> decide

/-- The entropy and its checksum are the 11 bits of each word. -/
theorem length_append_chk {z : Size} {e : Bits} (he : e.length = z.entW) :
    (e ++ chk e z.csW).length = 11 * z.nWords := by
  rw [List.length_append, he, length_chk_csW]
  cases z <;> rfl

theorem slot_emit_of_lt (s : State) {z : Size} (e : Bits) {i : Nat} (hi : i < z.nWords) :
    (emit s z e).slot i = { v := true, idx := (split (e ++ chk e z.csW)).getD i 0#11 } := by
  have h24 : i < 24 := Nat.lt_of_lt_of_le hi z.nWords_le
  exact (slot_of_lt _ h24).trans (mnemonicSlots_of_lt h24 hi)

theorem slot_emit_of_le (s : State) {z : Size} (e : Bits) {i : Nat} (hi : z.nWords ≤ i) :
    (emit s z e).slot i = Slot.empty := by
  rcases Nat.lt_or_ge i 24 with h24 | h24
  · exact (slot_of_lt _ h24).trans (mnemonicSlots_of_le h24 hi)
  · exact slot_of_le _ h24

theorem toNat_emit_mnlen (s : State) (z : Size) (e : Bits) : (emit s z e).mnlen.toNat = z.nWords := by
  cases z <;> rfl

theorem holdsMnemonicOf_emit (s : State) {z : Size} {e : Bits} (he : e.length = z.entW) :
    (emit s z e).HoldsMnemonicOf z e := by
  have hlength := length_append_chk he
  refine ⟨⟨toNat_emit_mnlen s z e, fun i hi => ?_⟩, ?_, fun i hi => slot_emit_of_le s e hi⟩
  · rw [slot_emit_of_lt s e hi]
  · rw [pack_eq_take hlength.ge fun i hi => by rw [slot_emit_of_lt s e hi], ← hlength, List.take_length]

/-- A completion leaves the slots and MNLEN alone. -/
theorem holdsMnemonicOf_completedAs {s : State} {z : Size} {e : Bits} {code : BitVec 4} :
    (s.completedAs code).HoldsMnemonicOf z e ↔ s.HoldsMnemonicOf z e := Iff.rfl

/-! ### ENCODE (R111) -/

theorem length_entbits (s : State) (z : Size) : (s.entbits z).length = z.entW := length_fileBits s.ent z

theorem exec_encode {s : State} (hfatal : s.fatal = false) :
    exec .encode s = .next ((emit s s.size (s.entbits s.size)).completedAs 0#4) :=
  congrArg Host.Outcome.next (finish_of_not_fatal (encodeOutcome s) hfatal)

/-- Settles O36: the words of ENCODE by the decoder, and its one outcome, whose slots pack to the entropy and its
checksum. -/
theorem encodeWritesTheMnemonic : Obligations.EncodeWritesTheMnemonic := by
  refine ⟨plainCommand_of_decode (by decide) fun _ => decode_of_encode, fun s hfatal => ?_⟩
  have hholds := holdsMnemonicOf_emit s (length_entbits s s.size)
  exact ⟨_, exec_encode hfatal, holdsMnemonicOf_completedAs.2 hholds, rfl, rfl⟩

/-! ### From ACC to ENT (R19, R112) -/

theorem length_accbits (s : State) (z : Size) : (s.accbits z).length = z.entW := length_fileBits s.acc z

/-- Bits 32k to 32k + 31 of a register file are register k (R55). -/
theorem slice_regBits {ws : List Word} {k : Nat} (hk : k < ws.length) :
    slice (regBits ws) (32 * k) 32 = wordBits ws[k] := by
  induction ws generalizing k with
  | nil => simp at hk
  | cons w ws ih =>
    cases k with
    | zero => exact slice_zero_append (length_wordBits w)
    | succ k =>
      have hskip : 32 * (k + 1) = (wordBits w).length + 32 * k := by rw [length_wordBits]; omega
      rw [regBits_cons, slice, hskip, List.drop_length_add_append]
      exact ih (Nat.lt_of_succ_lt_succ hk)

/-- The string of a register file, written back, is the file below its length. -/
theorem bitsFile_fileBits_getElem {rs : Vector Word 8} {z : Size} {k : Nat} (hk : k < z.entW / 32) (h8 : k < 8) :
    (bitsFile (fileBits rs z))[k] = rs[k] := by
  have hinside : 32 * k < (fileBits rs z).length := by rw [length_fileBits]; omega
  have hreg : k < (rs.toList.take (z.entW / 32)).length := by simp [hk, h8]
  rw [bitsFile_getElem _ h8, if_pos hinside, fileBits, slice_regBits hreg, bitsWord_wordBits, List.getElem_take,
    Vector.getElem_toList]

/-- A register of ENT as it reads once the entropy of the session is written there: ACC below the length, 0 past it. -/
theorem entWord_of_ent_eq_accbits {s t : State} {z : Size} (hent : t.ent = bitsFile (s.accbits z)) {k : Nat}
    (hk : k < 8) : t.entWord k = if k < z.entW / 32 then s.accWord k else 0#32 := by
  have hput : t.entWord k = (s.putEnt (s.accbits z)).entWord k := by rw [State.entWord, hent]; rfl
  rw [hput]
  split
  next hbelow => rw [entWord_of_lt _ hk, accWord_of_lt _ hk]; exact bitsFile_fileBits_getElem hbelow hk
  next hpast => exact entWord_putEnt_of_le s (length_accbits s z) (Nat.le_of_not_lt hpast)

/-! ### FINALIZE (R112) -/

/-- SLEN − 1 is the ELEN of the size that SLEN stands for (R39). -/
theorem sessionElen_of_slen {s : State} {z : Size} (hslen : s.slen = z.slen) : s.sessionElen = z.elen := by
  rw [State.sessionElen, hslen]
  cases z <;> rfl

theorem sessionSize_of_slen {s : State} {z : Size} (hslen : s.slen = z.slen) : s.sessionSize = z := by
  rw [State.sessionSize, sessionElen_of_slen hslen]
  cases z <;> rfl

/-- The writes of FINALIZE to ENT and ELEN for a session of size `z`, before it emits the mnemonic (R112). -/
def State.withCombined (s : State) (z : Size) : State :=
  { s with ent := bitsFile (s.accbits z), elen := z.elen }

theorem exec_finalize_of_session {s : State} {z : Size} (hfatal : s.fatal = false) (hpads : 2 ≤ s.padcnt.toNat)
    (hslen : s.slen = z.slen) :
    exec .finalize s = .next ((emit (s.withCombined z) z (s.accbits z)).completedAs 0#4) := by
  have houtcome : finalizeOutcome s = complete (emit (s.withCombined z) z (s.accbits z)) := by
    rw [finalizeOutcome, if_neg (Nat.not_lt.2 hpads), sessionSize_of_slen hslen, sessionElen_of_slen hslen]
    rfl
  exact congrArg Host.Outcome.next ((finish_of_not_fatal _ hfatal).trans (by rw [houtcome]; rfl))

theorem exec_finalize_of_fewPads {s : State} (hfatal : s.fatal = false) (hpads : s.padcnt.toNat < 2) :
    exec .finalize s = .next ({ s with result := 0#32 }.completedAs 5#4) := by
  have houtcome : finalizeOutcome s = raise _ _ := if_pos hpads
  exact congrArg Host.Outcome.next ((finish_of_not_fatal _ hfatal).trans (by rw [houtcome]; rfl))

/-- Settles O37: the words of FINALIZE by the decoder, and its two outcomes by the number of pads; the slots pack to the
combined entropy and its checksum, and ENT holds that entropy. -/
theorem finalizeWritesTheCombinedMnemonic : Obligations.FinalizeWritesTheCombinedMnemonic := by
  refine ⟨plainCommand_of_decode (by decide) fun _ => decode_of_finalize, fun s z hfatal hpads hslen => ?_,
    fun _ => exec_finalize_of_fewPads⟩
  have hholds := holdsMnemonicOf_emit (s.withCombined z) (length_accbits s z)
  exact ⟨_, exec_finalize_of_session hfatal hpads hslen, holdsMnemonicOf_completedAs.2 hholds,
    fun k hk => entWord_of_ent_eq_accbits rfl hk, rfl, rfl⟩

end Sys2Proof.Machine

/-! Errors and the interrupt line (spec/60_exceptions.md R118, R121, R124): every outcome of every command, said once by
the writes its rule lists; what an error completion leaves; and the events that raise and clear IRQ. -/

namespace Sys2Proof.Machine

/-! ### What a command can come to (R118, R121) -/

/-- What every command leaves of the host's side of the block: CTRL, OVR, FATAL and RST_N, and the fields of the model's
own. -/
def State.SameHostSide (w s : State) : Prop :=
  w = { w with
    inputs := s.inputs, rstN := s.rstN, rdata := s.rdata, draws := s.draws, ie := s.ie, ovr := s.ovr, fatal := s.fatal }

theorem State.SameHostSide.rstN_eq {w s : State} (h : w.SameHostSide s) : w.rstN = s.rstN := by
  unfold State.SameHostSide at h
  rw [h]

theorem State.SameHostSide.ie_eq {w s : State} (h : w.SameHostSide s) : w.ie = s.ie := by
  unfold State.SameHostSide at h
  rw [h]

/-- The outcomes of a command at `s` before the check of FATAL: each error with all the writes its rule lists before the
`raise` (R121), and OK, whose writes keep the host's side. -/
inductive OutcomeOf (s : State) : Instr → Completion → Prop where
  | ok {i : Instr} {w : State} : w.SameHostSide s → OutcomeOf s i (complete w)
  | invalidWord {slot : BitVec 5} :
    OutcomeOf s (.lookup slot) (raise .invalidWord { s.putSlot slot.toNat Slot.empty with result := 0#32 })
  | invalidWordCount {i : Instr} :
    i = .validate ∨ i = .recover → OutcomeOf s i (raise .invalidWordCount { s with result := 0#32, invmask := 0#24 })
  | invalidWords {i : Instr} (m : BitVec 24) :
    i = .validate ∨ i = .recover → OutcomeOf s i (raise .invalidWords { s with result := 0#32, invmask := m })
  | inconsistentPadLength : OutcomeOf s .accum (raise .inconsistentPadLength { s with result := 0#32 })
  | insufficientPads : OutcomeOf s .finalize (raise .insufficientPads { s with result := 0#32 })
  | checksumRecoveryFailed :
    OutcomeOf s .recover (raise .checksumRecoveryFailed { s with result := 0#32, invmask := 0#24 })
  | illegalCommand {slot : BitVec 5} : 23 < slot.toNat → OutcomeOf s (.lookup slot) (raise .illegalCommand s)

theorem lookupOutcome_outcomeOf (W : Idx → List Byte) (slot : BitVec 5) (s : State) :
    OutcomeOf s (.lookup slot) (lookupOutcome W slot.toNat s) := by
  cases hfind : indexOf W s.wbufBytes with
  | none => rw [lookupOutcome_of_notFound _ hfind]; exact .invalidWord
  | some r => rw [lookupOutcome_of_found _ hfind]; exact .ok rfl

theorem validateOutcome_outcomeOf {i : Instr} (hi : i = .validate ∨ i = .recover) (s : State) :
    OutcomeOf s i (validateOutcome s) := by
  cases hvalidate : validate s with
  | valid z => rw [validateOutcome_of_valid hvalidate]; exact .ok rfl
  | invalidWordCount => rw [validateOutcome_of_invalidWordCount hvalidate]; exact .invalidWordCount hi
  | invalidWords m => rw [validateOutcome_of_invalidWords hvalidate]; exact .invalidWords m hi

/-- RECOVER errs as VALIDATE does, or on a valid mnemonic when the search finds no match. -/
theorem recoverOutcome_outcomeOf (s : State) : OutcomeOf s .recover (recoverOutcome s) := by
  by_cases hvalid : ∃ z, validate s = .valid z
  · obtain ⟨z, hvalidate⟩ := hvalid
    cases hsearch : search s z with
    | none => rw [recoverOutcome_of_noMatch hvalidate hsearch]; exact .checksumRecoveryFailed
    | some f => rw [recoverOutcome_of_found hvalidate hsearch]; exact .ok rfl
  · rw [recoverOutcome_eq_validateOutcome (not_exists.1 hvalid)]
    exact validateOutcome_outcomeOf (.inr rfl) s

theorem accumOutcome_outcomeOf (s : State) : OutcomeOf s .accum (accumOutcome s) := by
  rw [accumOutcome]
  split
  · exact .inconsistentPadLength
  · exact .ok rfl

theorem finalizeOutcome_outcomeOf (s : State) : OutcomeOf s .finalize (finalizeOutcome s) := by
  rw [finalizeOutcome]
  split
  · exact .insufficientPads
  · exact .ok rfl

/-- Every command commits one of its outcomes. -/
theorem exec_eq_finish_outcomeOf (i : Instr) (s : State) : ∃ o, OutcomeOf s i o ∧ exec i s = .next (finish s o) := by
  cases i with
  | lookup slot =>
    rcases Nat.lt_or_ge 23 slot.toNat with hslot | hslot
    · exact ⟨_, .illegalCommand hslot, if_neg (Nat.not_le.2 hslot)⟩
    · exact ⟨_, lookupOutcome_outcomeOf Config.WORDLIST slot s, if_pos hslot⟩
  | wordat index => exact ⟨wordatOutcome Config.WORDLIST index s, .ok rfl, rfl⟩
  | validate => exact ⟨_, validateOutcome_outcomeOf (.inl rfl) s, rfl⟩
  | checksum => exact ⟨checksumOutcome s, .ok rfl, rfl⟩
  | recover => exact ⟨_, recoverOutcome_outcomeOf s, rfl⟩
  | encode => exact ⟨encodeOutcome s, .ok rfl, rfl⟩
  | clrsess => exact ⟨clrsessOutcome s, .ok rfl, rfl⟩
  | accum => exact ⟨_, accumOutcome_outcomeOf s, rfl⟩
  | finalize => exact ⟨_, finalizeOutcome_outcomeOf s, rfl⟩

/-- A command completes with WORDLIST_INTEGRITY alone, or, with a sound word list, with one of its outcomes (R119). -/
theorem exec_cases {i : Instr} {s t : State} (hexec : exec i s = .next t) :
    t = s.completedAs 7#4 ∨ ∃ o, OutcomeOf s i o ∧ t = o.writes.completedAs o.code.bits := by
  obtain ⟨o, ho, hfinish⟩ := exec_eq_finish_outcomeOf i s
  obtain rfl : finish s o = t := Host.Outcome.next.inj (hfinish.symm.trans hexec)
  rcases finish_cases s o with ⟨-, hfatal⟩ | ⟨-, hown⟩
  · exact .inl hfatal
  · exact .inr ⟨o, ho, hown⟩

/-! ### What an error leaves (R121) -/

/-- Settles O10: of the outcomes with a code, six write RESULT, and the registers beside it by their own lists; the two
general errors write nothing. -/
theorem errorMakesOnlyItsOwnWrites : Obligations.ErrorMakesOnlyItsOwnWrites := by
  intro i s t hexec
  rcases exec_cases hexec with rfl | ⟨o, ho, rfl⟩
  · exact ⟨fun _ h6 => absurd h6 (by simp), fun _ => rfl⟩
  cases ho with
  | ok _ => exact ⟨fun h1 => absurd h1 (by simp [Code.bits]), fun h7 => absurd h7 (by simp [Code.bits])⟩
  | invalidWord | invalidWordCount _ | invalidWords _ _ | inconsistentPadLength | insufficientPads
  | checksumRecoveryFailed =>
    exact ⟨fun _ _ => ⟨rfl, by simp [Code.bits]⟩, fun h7 => absurd h7 (by simp [Code.bits])⟩
  | illegalCommand _ => exact ⟨fun _ h6 => absurd h6 (by simp [Code.bits]), fun _ => rfl⟩

/-! ### The interrupt line (R124) -/

theorem irq_eq_true_iff (s : State) : s.irq = true ↔ s.rstN = true ∧ s.ie = true ∧ s.done = true := by
  simp [State.irq]

theorem irq_of_rstN_low {s : State} (hrst : s.rstN = false) : s.irq = false := by
  simp [State.irq, hrst]

theorem irq_of_masked {s : State} (hie : s.ie = false) : s.irq = false := by
  simp [State.irq, hie]

theorem irq_of_not_done {s : State} (hdone : s.done = false) : s.irq = false := by
  simp [State.irq, hdone]

/-- Every completion sets DONE and leaves CTRL and RST_N, whatever its code (R123). -/
theorem exec_done_ie_rstN {i : Instr} {s t : State} (hexec : exec i s = .next t) :
    t.done = true ∧ t.ie = s.ie ∧ t.rstN = s.rstN := by
  rcases exec_cases hexec with rfl | ⟨o, ho, rfl⟩
  · exact ⟨rfl, rfl, rfl⟩
  refine ⟨rfl, ?_⟩
  cases ho with
  | ok hsame => exact ⟨hsame.ie_eq, hsame.rstN_eq⟩
  | _ => exact ⟨rfl, rfl⟩

/-- A host write clears IRQ when its effect does: while RST_N = 0 the write is not taken, and IRQ is 0 (R136). -/
theorem irq_after_write {s t : State} {off : Offset} {v : Word}
    (hstep : step (s.arrives (.write 32 off v)) = .next t) (heffect : (hostWrite s off v).irq = false) :
    t.irq = false := by
  rw [step_arrives] at hstep
  rcases hostAccess_cases s (hostWrite s off v) 32 off with ⟨r, -, hrefused⟩ | ⟨-, -, hnext⟩
  · cases hrefused.symm.trans hstep
  · obtain rfl := Host.Outcome.next.inj (hnext.symm.trans hstep)
    split
    next => exact heffect
    next hlow => exact irq_of_rstN_low (Bool.eq_false_iff.2 hlow)

/-- IE <- 0 masks the interrupt, and the soft reset clears IE (R32, R138). -/
theorem irq_ctrlWrite {s : State} {v : Word} (hv : v.getLsbD 0 = false ∨ v.getLsbD 1 = true) :
    (ctrlWrite s v).irq = false := by
  rcases ctrlWrite_cases s v with ⟨-, hreset⟩ | ⟨hbit1, hwrite⟩
  · rw [hreset]
    exact irq_of_masked rfl
  · rw [hwrite]
    exact irq_of_masked (hv.resolve_right (Bool.eq_false_iff.1 hbit1))

/-- Settles O50: a completion sets DONE and leaves IE; a STATUS write and an acceptance clear DONE, a CTRL write IE, and
the reset input forces the line low. -/
theorem interruptFollowsDone : Obligations.InterruptFollowsDone := by
  refine ⟨fun s hrst => ?_, fun i s t hrst hie hexec => ?_, fun s t v hv hstep => ?_, fun s t c hpend hstep => ?_,
    fun s t v hv hstep => ?_, fun s t hstep => ?_⟩
  · rw [irq_eq_true_iff, and_iff_right hrst]
  · obtain ⟨hdone, hkeepsIe, hkeepsRst⟩ := exec_done_ie_rstN hexec
    exact (irq_eq_true_iff t).2 ⟨hkeepsRst.trans hrst, hkeepsIe.trans hie, hdone⟩
  · have hwrite : hostWrite s 0x008#12 v = s.statusWrite v := rfl
    refine irq_after_write hstep (irq_of_not_done ?_)
    simp [hwrite, hv]
  · have haccept : hostWrite s 0x00C#12 c = accept s c := if_neg (by simp [State.busy, hpend])
    refine irq_after_write hstep (irq_of_not_done ?_)
    rw [haccept, accept_done]
  · exact irq_after_write hstep (irq_ctrlWrite hv)
  · obtain rfl : driveRstN s false = t := Host.Outcome.next.inj ((step_arrives s _).symm.trans hstep)
    exact irq_of_rstN_low (by simp [driveRstN])

end Sys2Proof.Machine

/-! Decoder and encoder as inverses, and the rows of the (match, mask) table against the decoder
(spec/30_encoding.md R68 to R74). -/

namespace Sys2Proof

/-! ### The fields of an encoding (R66, R68) -/

theorem opField_encode (i : Instr) : opField (encode i) = i.op := by
  cases i with
  | lookup slot => exact Laws.OpcodeField.lookup slot
  | wordat index => exact Laws.OpcodeField.wordat index
  | validate | checksum | recover | encode | clrsess | accum | finalize => rfl

/-- The layout of a LOOKUP word as the decoder cuts it: three zero fields read as one. -/
theorem encode_lookup (slot : BitVec 5) : encode (.lookup slot) = 0#19 ++ slot ++ 0x01#8 := rfl

/-- The layout of a WORDAT word as the decoder cuts it: RSVA and SLOT read as one. -/
theorem encode_wordat (index : Idx) : encode (.wordat index) = 0#5 ++ index ++ 0#8 ++ 0x02#8 := by
  have hzeros : 0#5 ++ index ++ 0#3 ++ 0#5 = 0#5 ++ index ++ (0#3 ++ 0#5) := BitVec.append_assoc
  exact congrArg (· ++ 0x02#8) hzeros

theorem lookupFields_encode (slot : BitVec 5) :
    aboveSlot (encode (.lookup slot)) = 0#19 ∧ slotField (encode (.lookup slot)) = slot := by
  have hword := (word_eq_lookupFields (encode (.lookup slot))).symm.trans (encode_lookup slot)
  obtain ⟨hfields, -⟩ := append_eq_append_iff.1 hword
  exact append_eq_append_iff.1 hfields

theorem wordatFields_encode (index : Idx) :
    aboveImm11 (encode (.wordat index)) = 0#5 ∧ imm11Field (encode (.wordat index)) = index ∧
      belowImm11 (encode (.wordat index)) = 0#8 := by
  have hword := (word_eq_wordatFields (encode (.wordat index))).symm.trans (encode_wordat index)
  obtain ⟨hfields, -⟩ := append_eq_append_iff.1 hword
  obtain ⟨hhigh, hbelow⟩ := append_eq_append_iff.1 hfields
  obtain ⟨habove, hindex⟩ := append_eq_append_iff.1 hhigh
  exact ⟨habove, hindex, hbelow⟩

/-! ### Decode of encode (R68, R74) -/

/-- A well-formed command is read back from its word, with every slot 0 to 23 and every index. -/
theorem decode_encode {i : Instr} (hi : i.WellFormed) : decode (encode i) = .ok i := by
  have hop := opField_encode i
  cases i with
  | lookup slot =>
    obtain ⟨habove, hslot⟩ := lookupFields_encode slot
    have hbound : slot.toNat ≤ 23 := of_decide_eq_true hi
    rw [Machine.decode_lookup hop habove (by rwa [hslot]), hslot]
  | wordat index =>
    obtain ⟨habove, hindex, hbelow⟩ := wordatFields_encode index
    rw [Machine.decode_wordat hop habove hbelow, hindex]
  | validate | checksum | recover | encode | clrsess | accum | finalize => rfl

/-! ### Encode of decode (R70, R74) -/

theorem decodePlain_eq_ok_iff {c : Word} {i j : Instr} : decodePlain c i = .ok j ↔ aboveOp c = 0#24 ∧ i = j := by
  unfold decodePlain
  split <;> simp [*]

/-- The words a command with no operand is read from: OP below zeros. -/
theorem decode_eq_ok_of_decodePlain {c : Word} {i j : Instr} (hplain : decode c = decodePlain c i)
    (hi : i.WellFormed ∧ encode i = 0#24 ++ opField c) (h : decode c = .ok j) : j.WellFormed ∧ encode j = c := by
  obtain ⟨hwf, hword⟩ := hi
  obtain ⟨habove, rfl⟩ := decodePlain_eq_ok_iff.1 (hplain.symm.trans h)
  exact ⟨hwf, by rw [hword, ← habove, ← word_eq_plainFields]⟩

/-- The words a LOOKUP is read from. -/
theorem decode_eq_ok_of_lookup {c : Word} {i : Instr} (hop : opField c = 0x01#8) (h : decode c = .ok i) :
    i.WellFormed ∧ encode i = c := by
  rw [decode_of_lookup hop] at h
  split at h
  next habove =>
    split at h
    next hslot =>
      obtain rfl := Except.ok.inj h
      exact ⟨decide_eq_true hslot, by rw [encode_lookup, ← habove, ← hop, ← word_eq_lookupFields]⟩
    next => cases h
  next => cases h

/-- The words a WORDAT is read from. -/
theorem decode_eq_ok_of_wordat {c : Word} {i : Instr} (hop : opField c = 0x02#8) (h : decode c = .ok i) :
    i.WellFormed ∧ encode i = c := by
  rw [decode_of_wordat hop] at h
  split at h
  next hfields =>
    obtain ⟨habove, hbelow⟩ := hfields
    obtain rfl := Except.ok.inj h
    have hword := word_eq_wordatFields c
    rw [habove, hbelow, hop] at hword
    exact ⟨rfl, (encode_wordat _).trans hword.symm⟩
  next => cases h

theorem decode_eq_ok_of_plain {c : Word} {i : Instr} (hop : 3 ≤ (opField c).toNat ∧ (opField c).toNat ≤ 9)
    (h : decode c = .ok i) : i.WellFormed ∧ encode i = c := by
  rcases (op_between_three_and_nine_iff _).1 hop with hop | hop | hop | hop | hop | hop | hop
  · exact decode_eq_ok_of_decodePlain (Machine.decode_of_validate hop) (by rw [hop]; exact ⟨rfl, rfl⟩) h
  · exact decode_eq_ok_of_decodePlain (Machine.decode_of_checksum hop) (by rw [hop]; exact ⟨rfl, rfl⟩) h
  · exact decode_eq_ok_of_decodePlain (Machine.decode_of_recover hop) (by rw [hop]; exact ⟨rfl, rfl⟩) h
  · exact decode_eq_ok_of_decodePlain (Machine.decode_of_encode hop) (by rw [hop]; exact ⟨rfl, rfl⟩) h
  · exact decode_eq_ok_of_decodePlain (Machine.decode_of_clrsess hop) (by rw [hop]; exact ⟨rfl, rfl⟩) h
  · exact decode_eq_ok_of_decodePlain (Machine.decode_of_accum hop) (by rw [hop]; exact ⟨rfl, rfl⟩) h
  · exact decode_eq_ok_of_decodePlain (Machine.decode_of_finalize hop) (by rw [hop]; exact ⟨rfl, rfl⟩) h

theorem decode_eq_ok {c : Word} {i : Instr} (h : decode c = .ok i) : i.WellFormed ∧ encode i = c := by
  rcases opField_cases c with hop | hop | hop | hop
  · rw [decode_of_unknownOp hop] at h
    cases h
  · exact decode_eq_ok_of_lookup hop h
  · exact decode_eq_ok_of_wordat hop h
  · exact decode_eq_ok_of_plain hop h

/-- Settles O1: the fields of an encoding are the decoder's, and a word that decodes is the fields of its command. -/
theorem decodeAndEncodeAgree : Obligations.DecodeAndEncodeAgree :=
  ⟨fun _ => decode_encode, fun _ _ => decode_eq_ok⟩

/-! ### The rows against the decoder (R69) -/

/-- A word that decodes carries the OP value of its command. -/
theorem opField_of_decode {c : Word} {i : Instr} (h : decode c = .ok i) : opField c = i.op := by
  rw [← (decode_eq_ok h).2, opField_encode]

theorem exists_decode_eq_ok_of_hasLegalFields {c : Word} (hc : HasLegalFields c) : ∃ i, decode c = .ok i := by
  rcases hc with ⟨hop, habove, hslot⟩ | ⟨hop, habove, hbelow⟩ | ⟨hop, habove⟩
  · exact ⟨_, Machine.decode_lookup hop habove hslot⟩
  · exact ⟨_, Machine.decode_wordat hop habove hbelow⟩
  · obtain ⟨i, hi⟩ := decode_of_plain hop
    exact ⟨i, hi.trans (if_pos habove)⟩

/-- The words that decode are the legal ones. -/
theorem exists_decode_eq_ok_iff (c : Word) : (∃ i, decode c = .ok i) ↔ HasLegalFields c := by
  refine ⟨fun ⟨i, hi⟩ => (legal_iff c).1 ?_, exists_decode_eq_ok_of_hasLegalFields⟩
  by_contra hillegal
  obtain ⟨e, he⟩ := exists_decode_eq_error (Bool.eq_false_iff.2 hillegal)
  cases hi.symm.trans he

/-- The OP value of a row: every row matches bits 7:0 whole. -/
def OpRow.op (r : OpRow) : BitVec 8 := r.matchBits.setWidth 8

theorem opField_of_selects {c : Word} {r : OpRow} (hr : r ∈ opRows) (h : selects c r = true) : opField c = r.op := by
  have hmask : ∀ r ∈ opRows, r.mask.setWidth 8 = 0xFF#8 := by decide
  simp only [selects, Bool.and_eq_true, decide_eq_true_eq] at h
  obtain ⟨hmatch, -⟩ := h
  calc opField c
      = c.setWidth 8 &&& r.mask.setWidth 8 := by
        rw [hmask r hr, opField, ← BitVec.setWidth_eq_extractLsb' (by decide)]
        exact BitVec.and_allOnes.symm
    _ = r.op := by rw [← BitVec.setWidth_and, hmatch, OpRow.op]

theorem opRow_eq_of_op_eq : ∀ r ∈ opRows, ∀ r' ∈ opRows, r.op = r'.op → r = r' := by decide

/-- A command and a row have one mnemonic exactly when they have one OP value (R68, R69). -/
theorem mnemonic_eq_iff_op_eq (i : Instr) : ∀ r ∈ opRows, i.mnemonic = r.mnemonic ↔ i.op = r.op := by
  cases i with
  | lookup slot => exact show ∀ r ∈ opRows, "LOOKUP" = r.mnemonic ↔ 0x01#8 = r.op by decide
  | wordat index => exact show ∀ r ∈ opRows, "WORDAT" = r.mnemonic ↔ 0x02#8 = r.op by decide
  | validate | checksum | recover | encode | clrsess | accum | finalize => decide

/-- A row selects the words that decode and carry its OP value. -/
theorem selects_iff_decode {c : Word} {r : OpRow} (hr : r ∈ opRows) :
    selects c r = true ↔ ∃ i, decode c = .ok i ∧ i.mnemonic = r.mnemonic := by
  constructor
  · intro hselects
    obtain ⟨i, hi⟩ := (exists_decode_eq_ok_iff c).2 ((exists_row_selects_iff c).1 ⟨r, hr, hselects⟩)
    exact ⟨i, hi, (mnemonic_eq_iff_op_eq i r hr).2 ((opField_of_decode hi).symm.trans (opField_of_selects hr hselects))⟩
  · rintro ⟨i, hi, hname⟩
    obtain ⟨r', hr', hselects⟩ := (exists_row_selects_iff c).2 ((exists_decode_eq_ok_iff c).1 ⟨i, hi⟩)
    have hop : r'.op = r.op := by
      rw [← opField_of_selects hr' hselects, opField_of_decode hi, (mnemonic_eq_iff_op_eq i r hr).1 hname]
    exact opRow_eq_of_op_eq r' hr' r hr hop ▸ hselects

/-- Settles O3: a row selects by OP value among the legal words, and no two rows have one OP value. -/
theorem rowSelectsItsCommandAlone : Obligations.RowSelectsItsCommandAlone :=
  ⟨fun _ _ hr => selects_iff_decode hr, fun _ r r' hr hr' hselects hselects' =>
    opRow_eq_of_op_eq r hr r' hr' ((opField_of_selects hr hselects).symm.trans (opField_of_selects hr' hselects'))⟩

/-- Settles O4: the eleven words are closed terms of the decoder. -/
theorem vectorWordsDecode : Obligations.VectorWordsDecode := by
  unfold Obligations.VectorWordsDecode
  decide

end Sys2Proof

/-! The commands' frames (spec/60_exceptions.md R118, R119; spec/10_state.md R36 to R46): which registers each command
writes, the codes it completes with, and the fields it does not read. -/

namespace Sys2Proof.Machine

/-! ### WORDLIST_INTEGRITY and the codes (R118, R119, R127) -/

/-- Settles O8: with FATAL = 1 every command, and so the turn on every pending word, completes alike. -/
theorem badWordListFailsEveryCommand : Obligations.BadWordListFailsEveryCommand := by
  refine ⟨fun i s => exec_of_fatal i, fun s c hturn hfatal hpend => ?_⟩
  rw [step_of_turn hturn]
  exact sequencerTurn_of_fatal hpend hfatal

/-- The commands that no legal word stands for are those of a slot the block does not have (R70). -/
theorem eq_lookup_of_not_wellFormed {i : Instr} (hi : i.wellFormed = false) :
    ∃ slot : BitVec 5, 23 < slot.toNat ∧ i = .lookup slot := by
  cases i with
  | lookup slot => exact ⟨slot, Nat.lt_of_not_le (of_decide_eq_false hi), rfl⟩
  | wordat | validate | checksum | recover | encode | clrsess | accum | finalize => cases hi

theorem exec_of_not_wellFormed {i : Instr} {s : State} (hi : i.wellFormed = false) : exec i s = illegalCommand s := by
  obtain ⟨slot, hslot, rfl⟩ := eq_lookup_of_not_wellFormed hi
  exact if_neg (Nat.not_le.2 hslot)

/-- An outcome's code is one of its command's, ILLEGAL_COMMAND apart (R118). -/
theorem OutcomeOf.code_mem_ownCodes {s : State} {i : Instr} {o : Completion} (ho : OutcomeOf s i o)
    (hi : i.WellFormed) : o.code.bits ∈ ownCodes i := by
  cases ho with
  | ok _ => cases i <;> simp [ownCodes, Code.bits]
  | invalidWordCount h | invalidWords _ h => rcases h with rfl | rfl <;> simp [ownCodes, Code.bits]
  | invalidWord | inconsistentPadLength | insufficientPads | checksumRecoveryFailed => simp [ownCodes, Code.bits]
  | illegalCommand hslot => exact absurd (of_decide_eq_true hi) (Nat.not_le.2 hslot)

/-- Settles O9: every command is a `finish`, whose code is 7 with FATAL = 1 and else its outcome's own. -/
theorem commandsCompleteWithTheirOwnCodes : Obligations.CommandsCompleteWithTheirOwnCodes := by
  intro i s
  obtain ⟨o, ho, hexec⟩ := exec_eq_finish_outcomeOf i s
  refine ⟨finish s o, hexec, rfl, rfl, fun hfatal => ?_, fun hfatal hi => ?_, fun hfatal hi => ?_⟩
  · rw [finish_of_fatal o hfatal, completedAs_err]
  · have hillegal : finish s o = s.completedAs 8#4 := by
      have h := hexec.symm.trans ((exec_of_not_wellFormed hi).trans (illegalCommand_eq s))
      rw [hfatal] at h
      exact Host.Outcome.next.inj h
    rw [hillegal, completedAs_err]
  · rw [finish_of_not_fatal o hfatal, completedAs_err]
    exact ho.code_mem_ownCodes hi

/-! ### The outcome of a command -/

/-- What a command comes to at `s` before the check of FATAL. -/
def outcomeAt (i : Instr) (s : State) : Completion :=
  match i with
  | .lookup slot =>
    if slot.toNat ≤ 23 then lookupOutcome Config.WORDLIST slot.toNat s else raise .illegalCommand s
  | .wordat index => wordatOutcome Config.WORDLIST index s
  | .validate => validateOutcome s
  | .checksum => checksumOutcome s
  | .recover => recoverOutcome s
  | .encode => encodeOutcome s
  | .clrsess => clrsessOutcome s
  | .accum => accumOutcome s
  | .finalize => finalizeOutcome s

theorem exec_eq_outcomeAt (i : Instr) (s : State) : exec i s = .next (finish s (outcomeAt i s)) := by
  cases i with
  | lookup slot =>
    by_cases hslot : slot.toNat ≤ 23
    · rw [outcomeAt, if_pos hslot]
      exact if_pos hslot
    · rw [outcomeAt, if_neg hslot]
      exact if_neg hslot
  | wordat | validate | checksum | recover | encode | clrsess | accum | finalize => rfl

/-- What holds of the state after WORDLIST_INTEGRITY and after the command's own outcome holds after the command. -/
theorem exec_next_cases {i : Instr} {s t : State} (hexec : exec i s = .next t) :
    (s.fatal = true ∧ t = s.completedAs 7#4) ∨
    (s.fatal = false ∧ t = (outcomeAt i s).writes.completedAs (outcomeAt i s).code.bits) := by
  obtain rfl : finish s (outcomeAt i s) = t := Host.Outcome.next.inj ((exec_eq_outcomeAt i s).symm.trans hexec)
  exact finish_cases s _

/-! ### The outcomes of ACCUM and FINALIZE by their conditions (R106, R112) -/

theorem accumOutcome_of_otherLength {s : State} (h : s.slen ≠ 0#2 ∧ s.slen ≠ s.size.slen) :
    accumOutcome s = raise .inconsistentPadLength { s with result := 0#32 } := if_pos h

theorem accumOutcome_of_fits {s : State} (h : ¬ (s.slen ≠ 0#2 ∧ s.slen ≠ s.size.slen)) :
    accumOutcome s = complete { s with
      acc := s.xorAcc s.size, slen := s.size.slen, padcnt := padcntNext s.padcnt,
      result := (padcntNext s.padcnt).setWidth 32 } := if_neg h

theorem finalizeOutcome_of_fewPads {s : State} (h : s.padcnt.toNat < MINPADS) :
    finalizeOutcome s = raise .insufficientPads { s with result := 0#32 } := if_pos h

theorem finalizeOutcome_of_pads {s : State} (h : ¬ s.padcnt.toNat < MINPADS) :
    finalizeOutcome s = complete (emit { s with ent := bitsFile (s.accbits s.sessionSize), elen := s.sessionElen }
      s.sessionSize (s.accbits s.sessionSize)) := if_neg h

/-! ### The registers a command writes (R36 to R43) -/

/-- The state `s` with the registers that the rule of `i` writes taken from `w`: RESULT and, by command, the slots,
WBUF, INVMASK, ENT with ENTCFG, MNLEN, and the session. -/
def ownWrites (i : Instr) (s w : State) : State :=
  match i with
  | .lookup _ => { s with result := w.result, mn := w.mn }
  | .wordat _ => { s with result := w.result, wbuf := w.wbuf }
  | .validate => { s with result := w.result, invmask := w.invmask }
  | .checksum => { s with result := w.result }
  | .recover => { s with result := w.result, invmask := w.invmask, ent := w.ent, elen := w.elen }
  | .encode => { s with result := w.result, mn := w.mn, mnlen := w.mnlen }
  | .clrsess | .accum => { s with result := w.result, acc := w.acc, padcnt := w.padcnt, slen := w.slen }
  | .finalize => { s with result := w.result, mn := w.mn, mnlen := w.mnlen, ent := w.ent, elen := w.elen }

theorem lookupOutcome_frame (W : Idx → List Byte) (slot : Nat) (s : State) :
    ∃ m r, (lookupOutcome W slot s).writes = { s with result := r, mn := m } := by
  cases hfind : indexOf W s.wbufBytes with
  | none => rw [lookupOutcome_of_notFound _ hfind]; exact ⟨_, _, rfl⟩
  | some r => rw [lookupOutcome_of_found _ hfind]; exact ⟨_, _, rfl⟩

theorem validateOutcome_frame (s : State) :
    ∃ m, (validateOutcome s).writes = { s with result := 0#32, invmask := m } := by
  cases hvalidate : validate s with
  | valid z => rw [validateOutcome_of_valid hvalidate]; exact ⟨_, rfl⟩
  | invalidWordCount => rw [validateOutcome_of_invalidWordCount hvalidate]; exact ⟨_, rfl⟩
  | invalidWords m => rw [validateOutcome_of_invalidWords hvalidate]; exact ⟨_, rfl⟩

/-- RECOVER errs as VALIDATE does, or finds no match, or finds one: the three ways its outcome is told. -/
theorem recoverOutcome_cases (s : State) :
    ((∀ z, validate s ≠ .valid z) ∧ recoverOutcome s = validateOutcome s) ∨
    ∃ z, validate s = .valid z ∧
      ((search s z = none ∧
          recoverOutcome s = raise .checksumRecoveryFailed { s with result := 0#32, invmask := 0#24 }) ∨
       ∃ f, search s z = some f ∧ recoverOutcome s =
          complete { s.putEnt f.cand with elen := z.elen, result := recoverResult f.cs f.combo, invmask := 0#24 }) := by
  by_cases hvalid : ∃ z, validate s = .valid z
  · obtain ⟨z, hvalidate⟩ := hvalid
    refine .inr ⟨z, hvalidate, ?_⟩
    cases hsearch : search s z with
    | none => exact .inl ⟨rfl, recoverOutcome_of_noMatch hvalidate hsearch⟩
    | some f => exact .inr ⟨f, rfl, recoverOutcome_of_found hvalidate hsearch⟩
  · exact .inl ⟨not_exists.1 hvalid, recoverOutcome_eq_validateOutcome (not_exists.1 hvalid)⟩

theorem recoverOutcome_frame (s : State) :
    ∃ r m e l, (recoverOutcome s).writes = { s with result := r, invmask := m, ent := e, elen := l } := by
  rcases recoverOutcome_cases s with ⟨-, h⟩ | ⟨z, -, ⟨-, h⟩ | ⟨f, -, h⟩⟩
  · obtain ⟨m, hm⟩ := validateOutcome_frame s
    rw [h, hm]
    exact ⟨_, _, _, _, rfl⟩
  · rw [h]
    exact ⟨_, _, _, _, rfl⟩
  · rw [h]
    exact ⟨_, _, _, _, rfl⟩

theorem accumOutcome_frame (s : State) :
    ∃ r a p l, (accumOutcome s).writes = { s with result := r, acc := a, padcnt := p, slen := l } := by
  by_cases hother : s.slen ≠ 0#2 ∧ s.slen ≠ s.size.slen
  · exact ⟨_, _, _, _, congrArg Completion.writes (accumOutcome_of_otherLength hother)⟩
  · exact ⟨_, _, _, _, congrArg Completion.writes (accumOutcome_of_fits hother)⟩

theorem finalizeOutcome_frame (s : State) :
    ∃ r m n e l, (finalizeOutcome s).writes = { s with result := r, mn := m, mnlen := n, ent := e, elen := l } := by
  by_cases hfew : s.padcnt.toNat < MINPADS
  · exact ⟨_, _, _, _, _, congrArg Completion.writes (finalizeOutcome_of_fewPads hfew)⟩
  · exact ⟨_, _, _, _, _, congrArg Completion.writes (finalizeOutcome_of_pads hfew)⟩

/-- A command writes no register that its rule does not name. -/
theorem outcomeAt_ownWrites (i : Instr) (s : State) :
    (outcomeAt i s).writes = ownWrites i s (outcomeAt i s).writes := by
  cases i with
  | lookup slot =>
    rw [outcomeAt]
    split
    · obtain ⟨m, r, h⟩ := lookupOutcome_frame Config.WORDLIST slot.toNat s
      rw [h]; rfl
    · rfl
  | validate => obtain ⟨m, h⟩ := validateOutcome_frame s; rw [outcomeAt, h]; rfl
  | recover => obtain ⟨r, m, e, l, h⟩ := recoverOutcome_frame s; rw [outcomeAt, h]; rfl
  | accum => obtain ⟨r, a, p, l, h⟩ := accumOutcome_frame s; rw [outcomeAt, h]; rfl
  | finalize => obtain ⟨r, m, n, e, l, h⟩ := finalizeOutcome_frame s; rw [outcomeAt, h]; rfl
  | wordat | checksum | encode | clrsess => rfl

/-- The frame of every command: its own registers, ERR, DONE and PEND. -/
theorem exec_frame {i : Instr} {s t : State} (hexec : exec i s = .next t) :
    t = (ownWrites i s t).completedAs t.err := by
  rcases exec_next_cases hexec with ⟨-, rfl⟩ | ⟨-, rfl⟩
  · cases i <;> rfl
  · have hown := outcomeAt_ownWrites i s
    cases i <;> exact congrArg (State.completedAs · _) hown

/-- Settles O11: the registers that `ownWrites` leaves out are as they were. -/
theorem onlyTheNamedCommandsWriteARegister : Obligations.OnlyTheNamedCommandsWriteARegister := by
  intro i s t hexec
  rw [exec_frame hexec]
  cases i <;> simp [ownWrites]

/-! ### The status fields, which no command reads (R46) -/

/-- The outcome with its writes changed by `f`. -/
def Completion.mapWrites (f : State → State) (o : Completion) : Completion := { code := o.code, writes := f o.writes }

/-- The state with other values of CTRL, of STATUS but FATAL, and of PEND. -/
def State.withStatus (ie done ovr : Bool) (err : BitVec 4) (pend : Option Word) (s : State) : State :=
  { s with ie := ie, done := done, ovr := ovr, err := err, pend := pend }

section Status

variable (ie done ovr : Bool) (err : BitVec 4) (pend : Option Word)

theorem lookupOutcome_withStatus (W : Idx → List Byte) (slot : Nat) (s : State) :
    lookupOutcome W slot (s.withStatus ie done ovr err pend) =
      (lookupOutcome W slot s).mapWrites (State.withStatus ie done ovr err pend) := by
  have hbuffer : (s.withStatus ie done ovr err pend).wbufBytes = s.wbufBytes := rfl
  cases hfind : indexOf W s.wbufBytes with
  | none => rw [lookupOutcome_of_notFound _ hfind, lookupOutcome_of_notFound _ (hbuffer ▸ hfind)]; rfl
  | some r => rw [lookupOutcome_of_found _ hfind, lookupOutcome_of_found _ (hbuffer ▸ hfind)]; rfl

theorem validateOutcome_withStatus (s : State) :
    validateOutcome (s.withStatus ie done ovr err pend) =
      (validateOutcome s).mapWrites (State.withStatus ie done ovr err pend) := by
  have hsame : validate (s.withStatus ie done ovr err pend) = validate s := rfl
  cases hvalidate : validate s with
  | valid z => rw [validateOutcome_of_valid hvalidate, validateOutcome_of_valid (hsame.trans hvalidate)]; rfl
  | invalidWordCount =>
    rw [validateOutcome_of_invalidWordCount hvalidate, validateOutcome_of_invalidWordCount (hsame.trans hvalidate)]; rfl
  | invalidWords m =>
    rw [validateOutcome_of_invalidWords hvalidate, validateOutcome_of_invalidWords (hsame.trans hvalidate)]; rfl

theorem recoverOutcome_withStatus (s : State) :
    recoverOutcome (s.withStatus ie done ovr err pend) =
      (recoverOutcome s).mapWrites (State.withStatus ie done ovr err pend) := by
  have hvalidate' : validate (s.withStatus ie done ovr err pend) = validate s := rfl
  have hsearch' (z : Size) : search (s.withStatus ie done ovr err pend) z = search s z := rfl
  rcases recoverOutcome_cases s with ⟨hinvalid, h⟩ | ⟨z, hvalid, ⟨hsearch, h⟩ | ⟨f, hsearch, h⟩⟩
  · rw [h, recoverOutcome_eq_validateOutcome (s := s.withStatus ie done ovr err pend) hinvalid,
      validateOutcome_withStatus]
  · rw [h, recoverOutcome_of_noMatch (hvalidate'.trans hvalid) ((hsearch' z).trans hsearch)]
    rfl
  · rw [h, recoverOutcome_of_found (hvalidate'.trans hvalid) ((hsearch' z).trans hsearch)]
    rfl

theorem accumOutcome_withStatus (s : State) :
    accumOutcome (s.withStatus ie done ovr err pend) =
      (accumOutcome s).mapWrites (State.withStatus ie done ovr err pend) := by
  by_cases hother : s.slen ≠ 0#2 ∧ s.slen ≠ s.size.slen
  · rw [accumOutcome_of_otherLength hother, accumOutcome_of_otherLength (s := s.withStatus ie done ovr err pend) hother]
    rfl
  · rw [accumOutcome_of_fits hother, accumOutcome_of_fits (s := s.withStatus ie done ovr err pend) hother]
    rfl

theorem finalizeOutcome_withStatus (s : State) :
    finalizeOutcome (s.withStatus ie done ovr err pend) =
      (finalizeOutcome s).mapWrites (State.withStatus ie done ovr err pend) := by
  by_cases hfew : s.padcnt.toNat < MINPADS
  · rw [finalizeOutcome_of_fewPads hfew, finalizeOutcome_of_fewPads (s := s.withStatus ie done ovr err pend) hfew]
    rfl
  · rw [finalizeOutcome_of_pads hfew, finalizeOutcome_of_pads (s := s.withStatus ie done ovr err pend) hfew]
    rfl

/-- The outcome of a command is the same whatever the status fields are. -/
theorem outcomeAt_withStatus (i : Instr) (s : State) :
    outcomeAt i (s.withStatus ie done ovr err pend) =
      (outcomeAt i s).mapWrites (State.withStatus ie done ovr err pend) := by
  cases i with
  | lookup slot =>
    simp only [outcomeAt]
    split
    · exact lookupOutcome_withStatus ie done ovr err pend Config.WORDLIST slot.toNat s
    · rfl
  | validate => exact validateOutcome_withStatus ie done ovr err pend s
  | recover => exact recoverOutcome_withStatus ie done ovr err pend s
  | accum => exact accumOutcome_withStatus ie done ovr err pend s
  | finalize => exact finalizeOutcome_withStatus ie done ovr err pend s
  | wordat | checksum | encode | clrsess => rfl

/-- A completion writes DONE, ERR and PEND, so of other status fields only IE and OVR are left. -/
theorem finish_withStatus (s : State) (o : Completion) :
    finish (s.withStatus ie done ovr err pend) (o.mapWrites (State.withStatus ie done ovr err pend)) =
      { finish s o with ie := ie, ovr := ovr } := by
  rcases finish_cases s o with ⟨hfatal, h⟩ | ⟨hfatal, h⟩
  · rw [h, finish_of_fatal (s := s.withStatus ie done ovr err pend) _ hfatal]
    rfl
  · rw [h, finish_of_not_fatal (s := s.withStatus ie done ovr err pend) _ hfatal]
    rfl

end Status

/-- Settles O12: the outcome keeps other status fields, and the completion overwrites all of them but IE and OVR. -/
theorem commandsReadNoStatusButFatal : Obligations.CommandsReadNoStatusButFatal := by
  intro i s t ie done ovr err pend hexec
  obtain rfl : finish s (outcomeAt i s) = t := Host.Outcome.next.inj ((exec_eq_outcomeAt i s).symm.trans hexec)
  calc exec i (s.withStatus ie done ovr err pend)
      = .next (finish (s.withStatus ie done ovr err pend) (outcomeAt i (s.withStatus ie done ovr err pend))) :=
        exec_eq_outcomeAt _ _
    _ = _ := by rw [outcomeAt_withStatus, finish_withStatus]

/-! ### The upper entropy registers, which no command reads with ELEN = 0 (R41) -/

/-- The state with another ENT. -/
def State.withEnt (e : Vector Word 8) (s : State) : State := { s with ent := e }

/-- Two outcomes alike but for ENT, where `o` keeps that of `s` and `o'` keeps `e`, or both write the same. -/
structure AgreeButEnt (s : State) (e : Vector Word 8) (o o' : Completion) : Prop where
  code_eq : o'.code = o.code
  writes_eq : o.writes = o'.writes.withEnt o.writes.ent
  ent_cases : (o.writes.ent = s.ent ∧ o'.writes.ent = e) ∨ o'.writes.ent = o.writes.ent

/-- A command that does not write ENT and whose other writes do not change with it. -/
theorem AgreeButEnt.of_mapWrites {s : State} {e : Vector Word 8} {o o' : Completion}
    (h : o' = o.mapWrites (State.withEnt e)) (hent : o.writes.ent = s.ent) : AgreeButEnt s e o o' := by
  subst h
  exact ⟨rfl, rfl, .inl ⟨hent, rfl⟩⟩

theorem AgreeButEnt.of_complete {s w : State} (e : Vector Word 8) (hent : w.ent = s.ent) :
    AgreeButEnt s e (complete w) (complete (w.withEnt e)) :=
  .of_mapWrites rfl hent

theorem AgreeButEnt.refl (s : State) (e : Vector Word 8) (o : Completion) : AgreeButEnt s e o o :=
  ⟨rfl, rfl, .inr rfl⟩

/-- A command that writes ENT whole. -/
theorem AgreeButEnt.of_eq {s : State} {e : Vector Word 8} {o o' : Completion} (h : o' = o) : AgreeButEnt s e o o' :=
  h ▸ .refl s e o'

section UpperEntropy

variable {s : State} {e : Vector Word 8}

theorem size_of_elen_false (helen : s.elen = false) : s.size = .words12 := by rw [State.size, helen]; rfl

/-- The 128-bit entropy is that of the first four registers. -/
theorem entbits_withEnt (hlow : ∀ k, k < 4 → e.toList.getD k 0#32 = s.entWord k) :
    (s.withEnt e).entbits .words12 = s.entbits .words12 := by
  refine congrArg regBits (List.ext_getElem (by simp [State.withEnt]) fun k hk _ => ?_)
  have hk4 : k < 4 := by simp [Size.entW] at hk; omega
  have h := hlow k hk4
  rw [getD_toList_of_lt _ _ (by omega), entWord_of_lt _ (by omega)] at h
  simpa [State.withEnt] using h

theorem xorAcc_withEnt (hlow : ∀ k, k < 4 → e.toList.getD k 0#32 = s.entWord k) :
    (s.withEnt e).xorAcc .words12 = s.xorAcc .words12 := by
  refine Vector.ext fun k hk => ?_
  rw [xorAcc_getElem _ _ hk, xorAcc_getElem _ _ hk]
  split
  next hk4 =>
    have h := hlow k hk4
    rw [getD_toList_of_lt _ _ hk, entWord_of_lt _ hk] at h
    exact congrArg (s.acc[k] ^^^ ·) h
  next => rfl

theorem lookupOutcome_withEnt (W : Idx → List Byte) (slot : Nat) :
    AgreeButEnt s e (lookupOutcome W slot s) (lookupOutcome W slot (s.withEnt e)) := by
  have hbuffer : (s.withEnt e).wbufBytes = s.wbufBytes := rfl
  cases hfind : indexOf W s.wbufBytes with
  | none =>
    rw [lookupOutcome_of_notFound _ hfind, lookupOutcome_of_notFound _ (hbuffer ▸ hfind)]
    exact .of_mapWrites rfl rfl
  | some r =>
    rw [lookupOutcome_of_found _ hfind, lookupOutcome_of_found _ (hbuffer ▸ hfind)]
    exact .of_mapWrites rfl rfl

theorem validateOutcome_withEnt : AgreeButEnt s e (validateOutcome s) (validateOutcome (s.withEnt e)) := by
  have hsame : validate (s.withEnt e) = validate s := rfl
  cases hvalidate : validate s with
  | valid z =>
    rw [validateOutcome_of_valid hvalidate, validateOutcome_of_valid (hsame.trans hvalidate)]
    exact .of_mapWrites rfl rfl
  | invalidWordCount =>
    rw [validateOutcome_of_invalidWordCount hvalidate, validateOutcome_of_invalidWordCount (hsame.trans hvalidate)]
    exact .of_mapWrites rfl rfl
  | invalidWords m =>
    rw [validateOutcome_of_invalidWords hvalidate, validateOutcome_of_invalidWords (hsame.trans hvalidate)]
    exact .of_mapWrites rfl rfl

/-- RECOVER reads no entropy: it leaves ENT or writes it whole. -/
theorem recoverOutcome_withEnt : AgreeButEnt s e (recoverOutcome s) (recoverOutcome (s.withEnt e)) := by
  have hvalidate' : validate (s.withEnt e) = validate s := rfl
  have hsearch' (z : Size) : search (s.withEnt e) z = search s z := rfl
  rcases recoverOutcome_cases s with ⟨hinvalid, h⟩ | ⟨z, hvalid, ⟨hsearch, h⟩ | ⟨f, hsearch, h⟩⟩
  · rw [h, recoverOutcome_eq_validateOutcome (s := s.withEnt e) hinvalid]
    exact validateOutcome_withEnt
  · rw [h, recoverOutcome_of_noMatch (hvalidate'.trans hvalid) ((hsearch' z).trans hsearch)]
    exact .of_mapWrites rfl rfl
  · rw [h, recoverOutcome_of_found (hvalidate'.trans hvalid) ((hsearch' z).trans hsearch)]
    exact .of_eq rfl

theorem checksumOutcome_withEnt (helen : s.elen = false) (hlow : ∀ k, k < 4 → e.toList.getD k 0#32 = s.entWord k) :
    AgreeButEnt s e (checksumOutcome s) (checksumOutcome (s.withEnt e)) := by
  have hchecksum : (s.withEnt e).entChecksum = s.entChecksum := by
    rw [entChecksum_of_elen_false helen, entChecksum_of_elen_false (s := s.withEnt e) helen, entbits_withEnt hlow]
  rw [checksumOutcome, checksumOutcome, hchecksum]
  exact .of_mapWrites rfl rfl

theorem emit_withEnt (z : Size) (b : Bits) : emit (s.withEnt e) z b = (emit s z b).withEnt e := rfl

theorem encodeOutcome_of_elen_false {s : State} (helen : s.elen = false) :
    encodeOutcome s = complete (emit s .words12 (s.entbits .words12)) := by
  rw [encodeOutcome, size_of_elen_false helen]

theorem encodeOutcome_withEnt (helen : s.elen = false) (hlow : ∀ k, k < 4 → e.toList.getD k 0#32 = s.entWord k) :
    AgreeButEnt s e (encodeOutcome s) (encodeOutcome (s.withEnt e)) := by
  rw [encodeOutcome_of_elen_false helen, encodeOutcome_of_elen_false (s := s.withEnt e) helen, entbits_withEnt hlow,
    emit_withEnt]
  exact .of_complete e (emit_ent _ _ _)

theorem accumOutcome_withEnt (helen : s.elen = false) (hlow : ∀ k, k < 4 → e.toList.getD k 0#32 = s.entWord k) :
    AgreeButEnt s e (accumOutcome s) (accumOutcome (s.withEnt e)) := by
  have hslen : (s.withEnt e).slen = s.slen := rfl
  rw [accumOutcome, accumOutcome, size_of_elen_false helen, size_of_elen_false (s := s.withEnt e) helen,
    xorAcc_withEnt hlow, hslen]
  split
  · exact .of_mapWrites rfl rfl
  · exact .of_mapWrites rfl rfl

/-- FINALIZE reads no entropy: with two pads it writes ENT whole. -/
theorem finalizeOutcome_withEnt : AgreeButEnt s e (finalizeOutcome s) (finalizeOutcome (s.withEnt e)) := by
  by_cases hfew : s.padcnt.toNat < MINPADS
  · rw [finalizeOutcome_of_fewPads hfew, finalizeOutcome_of_fewPads (s := s.withEnt e) hfew]
    exact .of_mapWrites rfl rfl
  · rw [finalizeOutcome_of_pads hfew, finalizeOutcome_of_pads (s := s.withEnt e) hfew]
    exact .of_eq rfl

theorem outcomeAt_withEnt (i : Instr) (helen : s.elen = false)
    (hlow : ∀ k, k < 4 → e.toList.getD k 0#32 = s.entWord k) :
    AgreeButEnt s e (outcomeAt i s) (outcomeAt i (s.withEnt e)) := by
  cases i with
  | lookup slot =>
    simp only [outcomeAt]
    split
    · exact lookupOutcome_withEnt Config.WORDLIST slot.toNat
    · exact .of_mapWrites rfl rfl
  | wordat | clrsess => exact .of_mapWrites rfl rfl
  | validate => exact validateOutcome_withEnt
  | checksum => exact checksumOutcome_withEnt helen hlow
  | recover => exact recoverOutcome_withEnt
  | encode => exact encodeOutcome_withEnt helen hlow
  | accum => exact accumOutcome_withEnt helen hlow
  | finalize => exact finalizeOutcome_withEnt

end UpperEntropy

/-- Settles O13: the outcomes from the two states agree but for ENT, and so do their completions. -/
theorem upperEntropyIsNotReadForTwelveWords : Obligations.UpperEntropyIsNotReadForTwelveWords := by
  intro i s t e helen hlow hexec
  obtain ⟨hcode, hwrites, hent⟩ := outcomeAt_withEnt (e := e) i helen hlow
  refine ⟨_, exec_eq_outcomeAt i (s.withEnt e), ?_⟩
  rcases exec_next_cases hexec with ⟨hfatal, rfl⟩ | ⟨hfatal, rfl⟩
  · rw [finish_of_fatal (s := s.withEnt e) _ hfatal]
    exact ⟨rfl, .inl ⟨rfl, rfl⟩⟩
  · rw [finish_of_not_fatal (s := s.withEnt e) _ hfatal, hcode]
    exact ⟨congrArg (State.completedAs · _) hwrites, hent⟩

end Sys2Proof.Machine

/-! The register window (spec/10_state.md R30 to R44; spec/20_memory.md R48 to R54; spec/70_reset_and_hazards.md R142,
R143): which register an aligned offset reaches, what a read of it returns, and what a write to it does. -/

namespace Sys2Proof.Machine

/-! ### The map (R30, R51) -/

/-- The 61 registers of the map. -/
def allRegs : List Reg :=
  [Reg.id, Reg.ctrl, Reg.status, Reg.cmd, Reg.result, Reg.invmask, Reg.mnlen, Reg.entcfg, Reg.session] ++
    (List.finRange 4).map Reg.wbuf ++ (List.finRange 8).map Reg.ent ++ (List.finRange 8).map Reg.acc ++
    (List.finRange 24).map Reg.mn

theorem mem_allRegs (r : Reg) : r ∈ allRegs := by
  cases r <;> simp [allRegs]

theorem forall_reg {p : Reg → Prop} (h : ∀ r ∈ allRegs, p r) (r : Reg) : p r := h r (mem_allRegs r)

theorem toNat_offset_wbuf (k : Fin 4) : (Reg.offset (.wbuf k)).toNat = 0x030 + 4 * k.val := by
  rw [Reg.offset, BitVec.toNat_ofNat, Nat.mod_eq_of_lt (by omega)]

theorem toNat_offset_ent (k : Fin 8) : (Reg.offset (.ent k)).toNat = 0x040 + 4 * k.val := by
  rw [Reg.offset, BitVec.toNat_ofNat, Nat.mod_eq_of_lt (by omega)]

theorem toNat_offset_acc (k : Fin 8) : (Reg.offset (.acc k)).toNat = 0x060 + 4 * k.val := by
  rw [Reg.offset, BitVec.toNat_ofNat, Nat.mod_eq_of_lt (by omega)]

theorem toNat_offset_mn (i : Fin 24) : (Reg.offset (.mn i)).toNat = 0x080 + 4 * i.val := by
  rw [Reg.offset, BitVec.toNat_ofNat, Nat.mod_eq_of_lt (by omega)]

theorem offset_mod_four (r : Reg) : r.offset.toNat % 4 = 0 := by
  cases r with
  | wbuf k => rw [toNat_offset_wbuf]; omega
  | ent k => rw [toNat_offset_ent]; omega
  | acc k => rw [toNat_offset_acc]; omega
  | mn i => rw [toNat_offset_mn]; omega
  | id | ctrl | status | cmd | result | invmask | mnlen | entcfg | session => rfl

theorem regAt_offset (r : Reg) : regAt r.offset = some r :=
  forall_reg (p := fun r => regAt r.offset = some r) (by decide) r

/-- The word a register stands at, or the words of no register. -/
theorem regAtWord_cases (w : Nat) :
    (∃ r, regAtWord w = some r ∧ r.offset.toNat = 4 * w) ∨
    (regAtWord w = none ∧ (9 ≤ w ∧ w < 12 ∨ 56 ≤ w)) := by
  unfold regAtWord
  split
  next h =>
    left
    interval_cases w <;> exact ⟨_, rfl, rfl⟩
  next h9 =>
    split
    next h => exact .inl ⟨_, rfl, (toNat_offset_wbuf _).trans (by dsimp only; omega)⟩
    next hwbuf =>
      split
      next h => exact .inl ⟨_, rfl, (toNat_offset_ent _).trans (by dsimp only; omega)⟩
      next hent =>
        split
        next h => exact .inl ⟨_, rfl, (toNat_offset_acc _).trans (by dsimp only; omega)⟩
        next hacc =>
          split
          next h => exact .inl ⟨_, rfl, (toNat_offset_mn _).trans (by dsimp only; omega)⟩
          next hmn => exact .inr ⟨rfl, by omega⟩

/-- An aligned offset is a register's or one of the unmapped ones (R51). -/
theorem aligned_cases {off : Offset} (hoff : off.toNat % 4 = 0) :
    (∃ r : Reg, off = r.offset) ∨ (regAt off = none ∧ unmappedOffset off = true) := by
  rcases regAtWord_cases (off.toNat / 4) with ⟨r, -, hr⟩ | ⟨hnone, hrange⟩
  · exact .inl ⟨r, BitVec.eq_of_toNat_eq (by omega)⟩
  · refine .inr ⟨hnone, ?_⟩
    simp only [unmappedOffset, Bool.or_eq_true, Bool.and_eq_true, decide_eq_true_eq]
    omega

theorem unmappedOffset_offset (r : Reg) : unmappedOffset r.offset = false :=
  forall_reg (p := fun r => unmappedOffset r.offset = false) (by decide) r

theorem regAt_eq_some_iff {off : Offset} (hoff : off.toNat % 4 = 0) {r : Reg} :
    regAt off = some r ↔ off = r.offset := by
  refine ⟨fun h => ?_, fun h => h ▸ regAt_offset r⟩
  rcases aligned_cases hoff with ⟨r', rfl⟩ | ⟨hnone, -⟩
  · rw [regAt_offset, Option.some.injEq] at h
    rw [h]
  · cases h.symm.trans hnone

theorem regAt_eq_none_iff {off : Offset} (hoff : off.toNat % 4 = 0) :
    regAt off = none ↔ unmappedOffset off = true := by
  rcases aligned_cases hoff with ⟨r, rfl⟩ | ⟨hnone, hunmapped⟩
  · simp [regAt_offset, unmappedOffset_offset]
  · exact iff_of_true hnone hunmapped

/-- Settles O41: the offsets by their numbers, and the words of the window that hold a register. -/
theorem registerMap : Obligations.RegisterMap :=
  ⟨by decide, toNat_offset_wbuf, toNat_offset_ent, toNat_offset_acc, toNat_offset_mn,
    fun r => ⟨offset_mod_four r, regAt_offset r⟩, fun _ hoff => regAt_eq_none_iff hoff⟩

/-! ### The busy-locked and the read-only registers (R30, R142, R143) -/

/-- The registers a host can write, locked while a command is pending: CMD and the operands (R142). -/
def Reg.writeLocked : Reg → Bool
  | .cmd | .mnlen | .entcfg | .wbuf _ | .ent _ | .mn _ => true
  | .id | .ctrl | .status | .result | .invmask | .session | .acc _ => false

/-- The registers a host write never reaches (R142). -/
def Reg.readOnly : Reg → Bool
  | .id | .result | .invmask | .session | .acc _ => true
  | .ctrl | .status | .cmd | .mnlen | .entcfg | .wbuf _ | .ent _ | .mn _ => false

theorem lockedForReads_offset (r : Reg) : lockedForReads r.offset = r.readLocked :=
  forall_reg (p := fun r => lockedForReads r.offset = r.readLocked) (by decide) r

theorem lockedForWrites_offset (r : Reg) : lockedForWrites r.offset = r.writeLocked :=
  forall_reg (p := fun r => lockedForWrites r.offset = r.writeLocked) (by decide) r

theorem readOnlyOffset_offset (r : Reg) : readOnlyOffset r.offset = r.readOnly :=
  forall_reg (p := fun r => readOnlyOffset r.offset = r.readOnly) (by decide) r

/-- An aligned offset that a predicate of mapped offsets holds of is a register's, and the predicate is that of
the register. -/
theorem exists_reg_of_flag {p : Offset → Bool} {q : Reg → Bool} (hreg : ∀ r : Reg, p r.offset = q r)
    (hmapped : ∀ off, p off = true → ¬ unmappedOffset off = true) {off : Offset} (hoff : off.toNat % 4 = 0)
    (hp : p off = true) : ∃ r : Reg, off = r.offset ∧ q r = true := by
  rcases aligned_cases hoff with ⟨r, rfl⟩ | ⟨-, hunmapped⟩
  · exact ⟨r, rfl, (hreg r).symm.trans hp⟩
  · exact absurd hunmapped (hmapped off hp)

theorem exists_reg_of_lockedForWrites {off : Offset} (hoff : off.toNat % 4 = 0) (hlocked : lockedForWrites off = true) :
    ∃ r : Reg, off = r.offset ∧ r.writeLocked = true := by
  refine exists_reg_of_flag lockedForWrites_offset (fun off => ?_) hoff hlocked
  simp only [lockedForWrites, unmappedOffset, Bool.or_eq_true, Bool.and_eq_true, decide_eq_true_eq]
  omega

theorem exists_reg_of_lockedForReads {off : Offset} (hoff : off.toNat % 4 = 0) (hlocked : lockedForReads off = true) :
    ∃ r : Reg, off = r.offset ∧ r.readLocked = true := by
  refine exists_reg_of_flag lockedForReads_offset (fun off => ?_) hoff hlocked
  simp only [lockedForReads, unmappedOffset, Bool.or_eq_true, Bool.and_eq_true, decide_eq_true_eq]
  omega

theorem exists_reg_of_readOnlyOffset {off : Offset} (hoff : off.toNat % 4 = 0) (honly : readOnlyOffset off = true) :
    ∃ r : Reg, off = r.offset ∧ r.readOnly = true := by
  refine exists_reg_of_flag readOnlyOffset_offset (fun off => ?_) hoff honly
  simp only [readOnlyOffset, unmappedOffset, Bool.or_eq_true, Bool.and_eq_true, decide_eq_true_eq]
  omega

/-! ### Accesses as steps (R52, R54, R136) -/

theorem hostAccess_aligned (s t : State) {off : Offset} (hoff : off.toNat % 4 = 0) :
    hostAccess s 32 off t = .next (if s.rstN then t else s) := by
  rw [hostAccess, accessRefusal_eq_none.2 ⟨rfl, hoff⟩]

theorem step_read {s : State} {off : Offset} (hrst : s.rstN = true) (hoff : off.toNat % 4 = 0) :
    step (s.arrives (.read 32 off)) = .next (hostRead s off) := by
  rw [step_arrives, takeEvent, hostAccess_aligned s _ hoff, if_pos hrst]

theorem step_write {s : State} {off : Offset} (v : Word) (hrst : s.rstN = true) (hoff : off.toNat % 4 = 0) :
    step (s.arrives (.write 32 off v)) = .next (hostWrite s off v) := by
  rw [step_arrives, takeEvent, hostAccess_aligned s _ hoff, if_pos hrst]

/-- While RST_N = 0 an access is passed over (R136). -/
theorem step_access_in_reset {s : State} {off : Offset} (hrst : s.rstN = false) (hoff : off.toNat % 4 = 0) (v : Word) :
    step (s.arrives (.write 32 off v)) = .next s ∧ step (s.arrives (.read 32 off)) = .next s := by
  have hlow : ¬ s.rstN = true := by simp [hrst]
  constructor
  · rw [step_arrives, takeEvent, hostAccess_aligned s _ hoff, if_neg hlow]
  · rw [step_arrives, takeEvent, hostAccess_aligned s _ hoff, if_neg hlow]

/-! ### Reads (R143) -/

theorem busy_eq_true_iff (s : State) : s.busy = true ↔ s.pend ≠ none := Option.isSome_iff_ne_none

theorem busy_eq_false_iff (s : State) : s.busy = false ↔ s.pend = none :=
  Option.isSome_eq_false_iff.trans Option.isNone_iff_eq_none

theorem hostRead_offset (s : State) (r : Reg) :
    hostRead s r.offset =
      if s.busy && r.readLocked then { s with rdata := some (Config.busyRead s.draws), draws := s.draws + 1 }
      else { s with rdata := some (s.regWord r) } := by
  simp only [hostRead, State.readValue, State.readDraws, regAt_offset]
  split <;> rfl

theorem hostRead_unmapped (s : State) {off : Offset} (hreg : regAt off = none) :
    hostRead s off = { s with rdata := some 0#32 } := by
  simp [hostRead, State.readValue, State.readDraws, hreg]

/-- Settles O43: by the register the offset reaches, which draws when it is locked under a pending command. -/
theorem readReturnsTheRegister : Obligations.ReadReturnsTheRegister := by
  intro s off hrst hoff
  rw [step_read hrst hoff]
  refine ⟨fun hpend hlocked => ?_, fun hfree => ⟨?_, ?_⟩⟩
  · obtain ⟨r, rfl, hr⟩ := exists_reg_of_lockedForReads hoff hlocked
    rw [hostRead_offset, (busy_eq_true_iff s).2 hpend, hr]
    rfl
  · rintro r rfl
    have hdraws : ¬ (s.busy && r.readLocked) = true := by
      rw [lockedForReads_offset] at hfree
      rw [Bool.and_eq_true, busy_eq_true_iff]
      rintro ⟨hpend, hr⟩
      exact hfree.elim hpend fun h => by simp [hr] at h
    rw [hostRead_offset, if_neg hdraws]
  · rintro (rfl | hunmapped)
    · have hcmd : hostRead s 0x00C#12 = _ := hostRead_offset s .cmd
      rw [hcmd, if_neg (by simp [Reg.readLocked])]
      rfl
    · rw [hostRead_unmapped s ((regAt_eq_none_iff hoff).2 hunmapped)]

/-! ### Writes (R142) -/

/-- A write to a busy-locked register under a pending command is dropped, and OVR set. -/
theorem hostWrite_locked {s : State} {r : Reg} (v : Word) (hr : r.writeLocked = true) (hbusy : s.busy = true) :
    hostWrite s r.offset v = { s with ovr := true } := by
  rw [hostWrite, regAt_offset]
  cases r with
  | cmd | mnlen | entcfg | wbuf | ent | mn => exact if_pos hbusy
  | id | ctrl | status | result | invmask | session | acc => cases hr

theorem hostWrite_readOnly (s : State) {r : Reg} (v : Word) (hr : r.readOnly = true) : hostWrite s r.offset v = s := by
  rw [hostWrite, regAt_offset]
  cases r with
  | id | result | invmask | session | acc => rfl
  | ctrl | status | cmd | mnlen | entcfg | wbuf | ent | mn => cases hr

theorem hostWrite_unmapped (s : State) {off : Offset} (v : Word) (hreg : regAt off = none) : hostWrite s off v = s := by
  rw [hostWrite, hreg]

/-- Settles O44: by the register the offset reaches. -/
theorem lockedWritesAreDroppedWithOverrun : Obligations.LockedWritesAreDroppedWithOverrun := by
  refine ⟨fun s off v hrst hoff hpend hlocked => ?_, fun s off v hrst hoff hkept => ?_⟩
  · obtain ⟨r, rfl, hr⟩ := exists_reg_of_lockedForWrites hoff hlocked
    rw [step_write v hrst hoff, hostWrite_locked v hr ((busy_eq_true_iff s).2 hpend)]
  · rw [step_write v hrst hoff]
    rcases hkept with honly | hunmapped
    · obtain ⟨r, rfl, hr⟩ := exists_reg_of_readOnlyOffset hoff honly
      rw [hostWrite_readOnly s v hr]
    · rw [hostWrite_unmapped s v ((regAt_eq_none_iff hoff).2 hunmapped)]

/-- The operand registers: those a host write stores into (R37, R38, R40, R41, R43). -/
def Reg.operand : Reg → Bool
  | .mnlen | .entcfg | .wbuf _ | .ent _ | .mn _ => true
  | .id | .ctrl | .status | .cmd | .result | .invmask | .session | .acc _ => false

theorem operand_of_writeLocked {r : Reg} (hr : r.writeLocked = true) (hcmd : r ≠ .cmd) : r.operand = true := by
  cases r with
  | cmd => exact absurd rfl hcmd
  | mnlen | entcfg | wbuf | ent | mn => rfl
  | id | ctrl | status | result | invmask | session | acc => cases hr

theorem hostWrite_operand {s : State} {r : Reg} (v : Word) (hr : r.operand = true) (hbusy : s.busy = false) :
    hostWrite s r.offset v = storeReg s r v := by
  have hidle : ¬ s.busy = true := by simp [hbusy]
  rw [hostWrite, regAt_offset]
  cases r with
  | mnlen | entcfg | wbuf | ent | mn => exact if_neg hidle
  | id | ctrl | status | cmd | result | invmask | session | acc => cases hr

/-! ### What a store leaves in its register, and in the others -/

/-- The bits that a register which the host writes and reads back keeps. -/
def Reg.kept : Reg → Word
  | .mnlen => 0#24 ++ BitVec.allOnes 8
  | .entcfg => 0#31 ++ BitVec.allOnes 1
  | .mn _ => BitVec.allOnes 1 ++ 0#20 ++ BitVec.allOnes 11
  | _ => BitVec.allOnes 32

theorem keptBits_offset {r : Reg} : r.operand = true → keptBits r.offset = r.kept :=
  forall_reg (p := fun r => r.operand = true → keptBits r.offset = r.kept) (by decide) r

/-- A bit vector is its high bits followed by its low ones. -/
theorem eq_extractLsb'_append {m n : Nat} (v : BitVec (m + n)) : v = v.extractLsb' n m ++ v.extractLsb' 0 n := by
  rw [BitVec.extractLsb'_append_extractLsb'_eq_extractLsb' (Nat.zero_add n).symm, BitVec.extractLsb'_eq_self]

theorem ofBool_getLsbD (v : Word) (i : Nat) : BitVec.ofBool (v.getLsbD i) = v.extractLsb' i 1 := by
  ext k hk
  obtain rfl : k = 0 := by omega
  simp

theorem regWord_storeReg_self (s : State) {r : Reg} (v : Word) (hr : r.operand = true) :
    (storeReg s r v).regWord r = v &&& r.kept := by
  cases r with
  | mnlen =>
    have hv : v = v.extractLsb' 8 24 ++ v.extractLsb' 0 8 := eq_extractLsb'_append (m := 24) (n := 8) v
    show 0#24 ++ v.extractLsb' 0 8 = v &&& (0#24 ++ BitVec.allOnes 8)
    conv_rhs => rw [hv, BitVec.and_append, BitVec.and_zero, BitVec.and_allOnes]
  | entcfg =>
    have hv : v = v.extractLsb' 1 31 ++ v.extractLsb' 0 1 := eq_extractLsb'_append (m := 31) (n := 1) v
    show 0#31 ++ BitVec.ofBool (v.getLsbD 0) = v &&& (0#31 ++ BitVec.allOnes 1)
    rw [ofBool_getLsbD]
    conv_rhs => rw [hv, BitVec.and_append, BitVec.and_zero, BitVec.and_allOnes]
  | mn i =>
    have hv : v = v.extractLsb' 31 1 ++ v.extractLsb' 11 20 ++ v.extractLsb' 0 11 := by
      have hhigh : v.extractLsb' 31 1 ++ v.extractLsb' 11 20 = v.extractLsb' 11 21 :=
        BitVec.extractLsb'_append_extractLsb'_eq_extractLsb' rfl
      rw [hhigh]
      exact eq_extractLsb'_append (m := 21) (n := 11) v
    have hslot : (storeReg s (.mn i) v).regWord (.mn i) = (Slot.ofWord v).word :=
      congrArg Slot.word (Vector.getElem_set_self i.isLt)
    rw [hslot, Slot.word, Slot.ofWord, ofBool_getLsbD]
    show _ = v &&& (BitVec.allOnes 1 ++ 0#20 ++ BitVec.allOnes 11)
    conv_rhs => rw [hv, BitVec.and_append, BitVec.and_append, BitVec.and_zero, BitVec.and_allOnes, BitVec.and_allOnes]
  | wbuf k => exact (Vector.getElem_set_self k.isLt).trans BitVec.and_allOnes.symm
  | ent k => exact (Vector.getElem_set_self k.isLt).trans BitVec.and_allOnes.symm
  | id | ctrl | status | cmd | result | invmask | session | acc => cases hr

theorem regWord_storeReg_of_ne (s : State) {r r' : Reg} (v : Word) (h : r' ≠ r) :
    (storeReg s r v).regWord r' = s.regWord r' := by
  cases r with
  | id | ctrl | status | cmd | result | invmask | session | acc => rfl
  | mnlen =>
    cases r' with
    | mnlen => exact absurd rfl h
    | _ => rfl
  | entcfg =>
    cases r' with
    | entcfg => exact absurd rfl h
    | _ => rfl
  | wbuf k =>
    cases r' with
    | wbuf k' => exact Vector.getElem_set_ne k.isLt k'.isLt fun hk => h (congrArg Reg.wbuf (Fin.ext hk.symm))
    | _ => rfl
  | ent k =>
    cases r' with
    | ent k' => exact Vector.getElem_set_ne k.isLt k'.isLt fun hk => h (congrArg Reg.ent (Fin.ext hk.symm))
    | _ => rfl
  | mn i =>
    cases r' with
    | mn i' =>
      exact congrArg Slot.word (Vector.getElem_set_ne i.isLt i'.isLt fun hi => h (congrArg Reg.mn (Fin.ext hi.symm)))
    | _ => rfl

/-- A store keeps all but the operand registers. -/
theorem storeReg_frame (s : State) (r : Reg) (v : Word) :
    ∃ n l w e m, storeReg s r v = { s with mnlen := n, elen := l, wbuf := w, ent := e, mn := m } := by
  cases r <;> exact ⟨_, _, _, _, _, rfl⟩

theorem storeReg_pend (s : State) (r : Reg) (v : Word) : (storeReg s r v).pend = s.pend := by
  obtain ⟨n, l, w, e, m, hstore⟩ := storeReg_frame s r v
  rw [hstore]

@[simp] theorem storeReg_inputs (s : State) (r : Reg) (v : Word) : (storeReg s r v).inputs = s.inputs := by
  obtain ⟨n, l, w, e, m, hstore⟩ := storeReg_frame s r v
  rw [hstore]

@[simp] theorem storeReg_done (s : State) (r : Reg) (v : Word) : (storeReg s r v).done = s.done := by
  obtain ⟨n, l, w, e, m, hstore⟩ := storeReg_frame s r v
  rw [hstore]

@[simp] theorem storeReg_ovr (s : State) (r : Reg) (v : Word) : (storeReg s r v).ovr = s.ovr := by
  obtain ⟨n, l, w, e, m, hstore⟩ := storeReg_frame s r v
  rw [hstore]

theorem readValue_of_idle {s : State} (hbusy : s.busy = false) (r : Reg) : s.readValue r.offset = s.regWord r := by
  simp [State.readValue, regAt_offset, hbusy]

/-- Settles O45: the write is a store, which keeps the register's defined bits and no other register. -/
theorem operandWriteIsReadBack : Obligations.OperandWriteIsReadBack := by
  intro s off v hrst hoff hpend hlocked hcmd
  obtain ⟨r, rfl, hr⟩ := exists_reg_of_lockedForWrites hoff hlocked
  have hoperand : r.operand = true := operand_of_writeLocked hr fun h => hcmd (congrArg Reg.offset h)
  have hidle : s.busy = false := (busy_eq_false_iff s).2 hpend
  have hidle' : (storeReg s r v).busy = false := (busy_eq_false_iff _).2 ((storeReg_pend s r v).trans hpend)
  refine ⟨storeReg s r v, ?_, ?_, fun off' hoff' hne => ?_⟩
  · rw [step_write v hrst hoff, hostWrite_operand v hoperand hidle]
  · rw [readValue_of_idle hidle', regWord_storeReg_self s v hoperand, keptBits_offset hoperand]
  · rcases aligned_cases hoff' with ⟨r', rfl⟩ | ⟨hnone, -⟩
    · rw [readValue_of_idle hidle', readValue_of_idle hidle,
        regWord_storeReg_of_ne s v fun h => hne (congrArg Reg.offset h)]
    · simp [State.readValue, hnone]

/-! ### CTRL and STATUS (R32, R33) and the operands under a pending command (R142) -/

theorem hostWrite_ctrl (s : State) (v : Word) : hostWrite s 0x004#12 v = ctrlWrite s v := rfl

theorem hostWrite_status (s : State) (v : Word) : hostWrite s 0x008#12 v = s.statusWrite v := rfl

/-- What a host write leaves while a command is pending: all but CTRL, DONE and OVR, unless it is the soft reset. -/
theorem hostWrite_of_busy {s : State} {off : Offset} (v : Word) (hoff : off.toNat % 4 = 0) (hbusy : s.busy = true)
    (hreset : ¬ (off = 0x004#12 ∧ v.getLsbD 1 = true)) :
    ∃ ie done ovr, hostWrite s off v = { s with ie := ie, done := done, ovr := ovr } := by
  have hnotIdle : ¬ s.busy = false := by simp [hbusy]
  rcases hostWrite_cases s off v with h | ⟨hreg, h⟩ | ⟨-, h⟩ | ⟨-, h⟩ | ⟨hidle, -, -⟩ | ⟨hidle, -⟩
  · exact ⟨_, _, _, h⟩
  · have hctrl : off = 0x004#12 := (regAt_eq_some_iff hoff).1 hreg
    rcases ctrlWrite_cases s v with ⟨hv, -⟩ | ⟨-, hie⟩
    · exact absurd ⟨hctrl, hv⟩ hreset
    · exact ⟨_, _, _, h.trans hie⟩
  · exact ⟨_, _, _, h⟩
  · exact ⟨_, _, _, h⟩
  · exact absurd hidle hnotIdle
  · exact absurd hidle hnotIdle

/-- Settles O46: a write by `hostWrite_of_busy`, a read by its frame; an access not taken changes nothing. -/
theorem operandsStandWhileACommandIsPending : Obligations.OperandsStandWhileACommandIsPending := by
  intro s t off v hpend hreset hstep
  rw [step_arrives, step_arrives] at hstep
  rcases hstep with hwrite | hread
  · rcases hostAccess_cases s (hostWrite s off v) 32 off with ⟨_, -, hrefused⟩ | ⟨-, hoff, hnext⟩
    · cases hrefused.symm.trans hwrite
    obtain rfl := Host.Outcome.next.inj (hnext.symm.trans hwrite)
    split
    · obtain ⟨ie, done, ovr, h⟩ := hostWrite_of_busy v hoff ((busy_eq_true_iff s).2 hpend) hreset
      rw [h]
    · rfl
  · rcases hostAccess_cases s (hostRead s off) 32 off with ⟨_, -, hrefused⟩ | ⟨-, -, hnext⟩
    · cases hrefused.symm.trans hread
    obtain rfl := Host.Outcome.next.inj (hnext.symm.trans hread)
    split
    · exact hostRead_frame s off
    · rfl

/-- Settles O47: the word of CTRL by IE, and the two kinds of CTRL write. (`ctrlWrite` itself names the model's
write.) -/
theorem ctrlWrite_holds : Obligations.CtrlWrite := by
  intro s v hrst
  refine ⟨?_, fun hv => ?_, fun hv => ?_⟩
  · rw [State.regWord, State.ctrlWord]
    cases s.ie <;> rfl
  · rw [step_softReset hrst hv, resetState, hrst]
    rfl
  · rw [step_write v hrst (by decide), hostWrite_ctrl, ctrlWrite, if_neg (Bool.eq_false_iff.1 hv)]

/-- Settles O48: the two sticky bits are masked by the complement of the written bits. -/
theorem statusWriteClearsWhatIsWrittenOne : Obligations.StatusWriteClearsWhatIsWrittenOne := by
  intro s v hrst
  rw [step_write v hrst (by decide), hostWrite_status, State.statusWrite]
  cases v.getLsbD 1 <;> cases v.getLsbD 2 <;> simp

/-- Settles O52: the level driven, by the level the input has; and the accesses while it is low. -/
theorem hardwareReset : Obligations.HardwareReset := by
  intro s
  refine ⟨?_, fun hlow => ⟨irq_of_rstN_low hlow, fun off v hoff => step_access_in_reset hlow hoff v, ?_⟩,
    fun hhigh => ?_⟩
  · rw [step_arrives, takeEvent, driveRstN, if_neg (by simp)]
    rfl
  · rw [step_rstN_rise hlow]
    rfl
  · rw [step_arrives, takeEvent, driveRstN, if_pos (by simp [hhigh])]

end Sys2Proof.Machine

/-! One step (spec/20_memory.md R59; spec/60_exceptions.md R116 to R123; spec/70_reset_and_hazards.md R136 to R142):
every way a step can go on, said once, and from it the events of DONE, OVR and the session, the invariant, and the end of a
run. -/

namespace Sys2Proof.Machine

/-! ### What a step can do -/

/-- The ways a step from `s` goes on, each from the state less the input it takes. -/
inductive StepOf (s : State) : State → Prop where
  /-- The sequencer's turn with nothing pending (R135). -/
  | idle : s.TurnIsNext → s.pend = none → StepOf s s.afterTurn
  /-- The completion of a command (R73). -/
  | run {c : Word} {i : Instr} {t : State} :
    s.TurnIsNext → s.pend = some c → decode c = .ok i → exec i s.afterTurn = .next t → StepOf s t
  /-- The completion of an illegal command (R71, R119). -/
  | illegal : s.TurnIsNext → s.pend ≠ none → StepOf s (s.afterTurn.completedAs (if s.fatal then 7#4 else 8#4))
  /-- An access in reset, a write that reaches no register that can be written, or RST_N at the level it has. -/
  | ignored : StepOf s s.afterTurn
  /-- A read (R54). -/
  | read (off : Offset) : s.rstN = true → StepOf s (hostRead s.afterTurn off)
  /-- A CTRL write with bit 1 = 0 (R32). -/
  | ctrl (ie : Bool) : s.rstN = true → StepOf s { s.afterTurn with ie := ie }
  /-- A CTRL write with bit 1 = 1 (R138). -/
  | softReset (v : Word) : s.rstN = true → s.inputs.head? = some (.write 32 0x004#12 v) → v.getLsbD 1 = true →
    StepOf s (resetState s.afterTurn)
  /-- A STATUS write (R33). -/
  | status (v : Word) : s.rstN = true → s.inputs.head? = some (.write 32 0x008#12 v) →
    StepOf s (s.afterTurn.statusWrite v)
  /-- A write to a busy-locked register while a command is pending (R142). -/
  | dropped (off : Offset) (v : Word) : s.rstN = true → s.inputs.head? = some (.write 32 off v) →
    lockedForWrites off = true → s.pend ≠ none → StepOf s { s.afterTurn with ovr := true }
  /-- The acceptance of a command (R72). -/
  | accepted (c : Word) : s.rstN = true → s.inputs.head? = some (.write 32 0x00C#12 c) → s.pend = none →
    StepOf s (accept s.afterTurn c)
  /-- A write to an operand register. -/
  | stored (r : Reg) (v : Word) : s.rstN = true → StepOf s (storeReg s.afterTurn r v)
  /-- RST_N driven: the reset state at the new level (R136). -/
  | level (b : Bool) : s.inputs.head? = some (.rstN b) → StepOf s { resetState s.afterTurn with rstN := b }

theorem stepOf_of_turn {s t : State} (hturn : s.TurnIsNext) (h : sequencerTurn s.afterTurn = .next t) : StepOf s t := by
  rcases sequencerTurn_cases s.afterTurn with ⟨hpend, hidle⟩ | ⟨c, i, hpend, hdecode, hrun⟩ | ⟨c, _, hpend, -, hillegal⟩
  · obtain rfl := Host.Outcome.next.inj (hidle.symm.trans h)
    exact .idle hturn hpend
  · exact .run hturn hpend hdecode (hrun.symm.trans h)
  · obtain rfl := Host.Outcome.next.inj ((hillegal.trans (illegalCommand_eq _)).symm.trans h)
    exact .illegal hturn (by rw [afterTurn_pend] at hpend; simp [hpend])

/-- A host write that is taken, by the register it reaches. -/
theorem stepOf_of_write {s : State} {off : Offset} {v : Word} (hrst : s.rstN = true)
    (hinput : s.inputs.head? = some (.write 32 off v)) (hoff : off.toNat % 4 = 0) :
    StepOf s (hostWrite s.afterTurn off v) := by
  rcases aligned_cases hoff with ⟨r, rfl⟩ | ⟨hnone, -⟩
  swap
  · rw [hostWrite_unmapped _ v hnone]
    exact .ignored
  cases hlocked : r.writeLocked with
  | true =>
    cases hbusy : s.busy with
    | true =>
      rw [hostWrite_locked (s := s.afterTurn) v hlocked hbusy]
      exact .dropped _ v hrst hinput ((lockedForWrites_offset r).trans hlocked) ((busy_eq_true_iff s).1 hbusy)
    | false =>
      by_cases hcmd : r = .cmd
      · subst hcmd
        have haccept : hostWrite s.afterTurn (Reg.offset .cmd) v = accept s.afterTurn v :=
          if_neg (Bool.eq_false_iff.1 hbusy)
        rw [haccept]
        exact .accepted v hrst hinput ((busy_eq_false_iff s).1 hbusy)
      · rw [hostWrite_operand (s := s.afterTurn) v (operand_of_writeLocked hlocked hcmd) hbusy]
        exact .stored r v hrst
  | false =>
    cases r with
    | ctrl =>
      have hctrl : hostWrite s.afterTurn (Reg.offset .ctrl) v = ctrlWrite s.afterTurn v := hostWrite_ctrl _ v
      rcases ctrlWrite_cases s.afterTurn v with ⟨hv, h⟩ | ⟨-, h⟩
      · rw [hctrl, h]
        exact .softReset v hrst hinput hv
      · rw [hctrl, h]
        exact .ctrl _ hrst
    | status => exact .status v hrst hinput
    | id | result | invmask | session | acc =>
      rw [hostWrite_readOnly _ v rfl]
      exact .ignored
    | cmd | mnlen | entcfg | wbuf | ent | mn => cases hlocked

/-- The effect of an access, when RST_N is high, and none when it is low. -/
theorem stepOf_of_hostAccess {s t u : State} {width : Nat} {off : Offset}
    (heffect : width = 32 → off.toNat % 4 = 0 → s.rstN = true → StepOf s u)
    (h : hostAccess s.afterTurn width off u = .next t) : StepOf s t := by
  rcases hostAccess_cases s.afterTurn u width off with ⟨_, -, hrefused⟩ | ⟨hwidth, hoff, hnext⟩
  · cases hrefused.symm.trans h
  obtain rfl := Host.Outcome.next.inj (hnext.symm.trans h)
  split
  next hrst => exact heffect hwidth hoff hrst
  next => exact .ignored

/-- Every step that goes on is one of `StepOf`. -/
theorem stepOf_of_step {s t : State} (hstep : step s = .next t) : StepOf s t := by
  rcases step_cases s with ⟨hnone, -⟩ | ⟨e, rest, hinput, htake⟩
  · exact stepOf_of_turn (.inl hnone) ((step_of_turn (.inl hnone)).symm.trans hstep)
  have hhead : s.inputs.head? = some e := by rw [hinput]; rfl
  have hrest : { s with inputs := rest } = s.afterTurn := by rw [State.afterTurn, hinput]; rfl
  rw [htake, hrest] at hstep
  cases e with
  | read width off => exact stepOf_of_hostAccess (fun _ _ hrst => .read off hrst) hstep
  | write width off v =>
    refine stepOf_of_hostAccess (fun hwidth hoff hrst => ?_) hstep
    exact stepOf_of_write hrst (hwidth ▸ hhead) hoff
  | sequencer => exact stepOf_of_turn (.inr hhead) hstep
  | rstN b =>
    obtain rfl := Host.Outcome.next.inj hstep
    unfold driveRstN
    split
    · exact .ignored
    · exact .level b hhead

/-! ### The sequencer's turn with a decoded word (R73, R135) -/

theorem turnIsNext_withPending (s : State) (c : Word) : (s.withPending c).TurnIsNext := by
  rw [State.TurnIsNext, withPending_inputs]
  cases s.inputs with
  | nil => exact .inl rfl
  | cons e rest => exact .inr rfl

/-- Taking the turn that `withPending` schedules leaves the inputs there were. -/
theorem afterTurn_withPending (s : State) (c : Word) : (s.withPending c).afterTurn = { s with pend := some c } := by
  have hinputs : (sequencerFirst s.inputs).tail = s.inputs := by cases s.inputs <;> rfl
  rw [State.afterTurn, withPending_inputs, hinputs, State.withPending]

theorem decode_of_decodeTableWord {nbits w : Nat} {i : Instr} (h : decodeTableWord nbits w = some i) :
    decode (commandWord nbits w) = .ok i := by
  rw [decodeTableWord] at h
  cases hdecode : decode (commandWord nbits w) with
  | ok j =>
    rw [hdecode] at h
    rw [Option.some.inj h]
  | error e =>
    rw [hdecode] at h
    cases h

theorem sequencerTurn_of_idle {s : State} (hpend : s.pend = none) : sequencerTurn s = .next s := by
  rw [sequencerTurn, hpend]

/-- Settles O6: the sequencer's turn decodes the pending word; a scheduled turn is one, and an idle one changes
nothing. -/
theorem stepRunsTheDecodedCommand : Obligations.StepRunsTheDecodedCommand := by
  refine ⟨fun s c i hturn hpend hdecode _ => ?_, fun s nbits w i htable => ?_, fun s hturn hpend => ?_⟩
  · rw [step_of_turn hturn]
    exact sequencerTurn_of_decode hpend hdecode
  · rw [State.withFetchWord, step_of_turn (turnIsNext_withPending s _), afterTurn_withPending]
    exact sequencerTurn_of_decode rfl (decode_of_decodeTableWord htable)
  · rw [step_of_turn hturn]
    exact sequencerTurn_of_idle hpend

/-! ### DONE, OVR and the session (R33, R39, R42, R123, R142) -/

theorem exec_done_pend {i : Instr} {s t : State} (hexec : exec i s = .next t) : t.done = true ∧ t.pend = none := by
  rw [exec_frame hexec]
  exact ⟨rfl, rfl⟩

theorem sequencerTurn_of_pending {s t : State} (hpend : s.pend ≠ none) (h : sequencerTurn s = .next t) :
    t.done = true ∧ t.pend = none := by
  rcases sequencerTurn_cases s with ⟨hnone, -⟩ | ⟨_, _, -, -, hrun⟩ | ⟨_, _, -, -, hillegal⟩
  · exact absurd hnone hpend
  · exact exec_done_pend (hrun.symm.trans h)
  · obtain rfl := Host.Outcome.next.inj ((hillegal.trans (illegalCommand_eq _)).symm.trans h)
    exact ⟨rfl, rfl⟩

/-- Settles O53: at a completion, and else by the ways of a step: DONE falls at an acceptance, a STATUS write and a
reset, and no way but a completion sets it. -/
theorem doneMovesOnlyAtItsEvents : Obligations.DoneMovesOnlyAtItsEvents := by
  intro s t hstep
  refine ⟨fun hturn hpend => ?_, fun hclear hset => ?_, fun hset hclear => ?_⟩
  · rw [step_of_turn hturn] at hstep
    exact sequencerTurn_of_pending (s := s.afterTurn) hpend hstep
  · cases stepOf_of_step hstep with
    | run hturn hpend _ _ => exact ⟨hturn, by simp [hpend]⟩
    | illegal hturn hpend => exact ⟨hturn, hpend⟩
    | idle | ignored | read | ctrl | softReset | status | dropped | accepted | stored | level =>
      simp [hclear, hostRead] at hset
  · cases stepOf_of_step hstep with
    | run _ _ _ hexec => simp [(exec_done_pend hexec).1] at hclear
    | accepted c _ hinput hpend => exact .inl ⟨c, hinput, hpend, rfl⟩
    | status v _ hinput => exact .inr (.inl ⟨v, by simpa [hset] using hclear, hinput⟩)
    | softReset v _ hinput hv => exact .inr (.inr (.inl ⟨v, hv, hinput⟩))
    | level b hinput => exact .inr (.inr (.inr ⟨b, hinput⟩))
    | idle | illegal | ignored | read | ctrl | dropped | stored => simp [hset, hostRead] at hclear

theorem exec_ovr {i : Instr} {s t : State} (hexec : exec i s = .next t) : t.ovr = s.ovr := by
  rw [exec_frame hexec]
  cases i <;> rfl

/-- Settles O54: by the ways of a step: OVR rises at a dropped write alone, and falls at a STATUS write and a reset. -/
theorem overrunMovesOnlyAtItsEvents : Obligations.OverrunMovesOnlyAtItsEvents := by
  intro s t hstep
  refine ⟨fun hclear hset => ?_, fun hset hclear => ?_⟩
  · cases stepOf_of_step hstep with
    | dropped off v _ hinput hlocked hpend => exact ⟨hpend, off, v, hlocked, hinput⟩
    | run _ _ _ hexec => simp [exec_ovr hexec, hclear] at hset
    | idle | illegal | ignored | read | ctrl | softReset | status | accepted | stored | level =>
      simp [hclear, hostRead] at hset
  · cases stepOf_of_step hstep with
    | run _ _ _ hexec => simp [exec_ovr hexec, hset] at hclear
    | status v _ hinput => exact .inl ⟨v, by simpa [hset] using hclear, hinput⟩
    | softReset v _ hinput hv => exact .inr (.inl ⟨v, hv, hinput⟩)
    | level b hinput => exact .inr (.inr ⟨b, hinput⟩)
    | idle | illegal | ignored | read | ctrl | dropped | accepted | stored => simp [hset, hostRead] at hclear

/-- ACC, PADCNT and SLEN of two states are the same. -/
def SameSession (t s : State) : Prop := t.acc = s.acc ∧ t.padcnt = s.padcnt ∧ t.slen = s.slen

/-- The commands that leave the session (R39, R42). -/
theorem exec_sameSession {i : Instr} {s t : State} (hexec : exec i s = .next t) (hclrsess : i ≠ .clrsess)
    (haccum : i ≠ .accum) : SameSession t s := by
  rw [exec_frame hexec]
  cases i with
  | clrsess => exact absurd rfl hclrsess
  | accum => exact absurd rfl haccum
  | lookup | wordat | validate | checksum | recover | encode | finalize => exact ⟨rfl, rfl, rfl⟩

theorem storeReg_sameSession (s : State) (r : Reg) (v : Word) : SameSession (storeReg s r v) s := by
  obtain ⟨n, l, w, e, m, hstore⟩ := storeReg_frame s r v
  rw [hstore]
  exact ⟨rfl, rfl, rfl⟩

/-- A step that is neither a CLRSESS, an ACCUM nor a reset keeps the session. -/
theorem stepOf_session {s t : State} (h : StepOf s t) :
    SameSession t s ∨ (s.TurnIsNext ∧ ∃ c, s.pend = some c ∧ (decode c = .ok .clrsess ∨ decode c = .ok .accum)) ∨
      s.ResetIsNext := by
  cases h with
  | @run c i _ hturn hpend hdecode hexec =>
    by_cases hclrsess : i = .clrsess
    · exact .inr (.inl ⟨hturn, c, hpend, .inl (hclrsess ▸ hdecode)⟩)
    · by_cases haccum : i = .accum
      · exact .inr (.inl ⟨hturn, c, hpend, .inr (haccum ▸ hdecode)⟩)
      · exact .inl (exec_sameSession (s := s.afterTurn) hexec hclrsess haccum)
  | stored r v _ => exact .inl (storeReg_sameSession s.afterTurn r v)
  | softReset v _ hinput hv => exact .inr (.inr (.inl ⟨v, hv, hinput⟩))
  | level b hinput => exact .inr (.inr (.inr ⟨b, hinput⟩))
  | idle | illegal | ignored | read | ctrl | status | dropped | accepted => exact .inl ⟨rfl, rfl, rfl⟩

/-- Settles O55: a changed session is not the same, so the step is one of the others. -/
theorem sessionChangesByItsCommandsAlone : Obligations.SessionChangesByItsCommandsAlone := by
  intro s t hstep hchanged
  refine (stepOf_session (stepOf_of_step hstep)).resolve_left ?_
  rintro ⟨hacc, hpadcnt, hslen⟩
  rcases hchanged with h | h | h
  · exact h hacc
  · exact h hpadcnt
  · exact h hslen

/-! ### The end of a run (R141) -/

theorem exec_inputs {i : Instr} {s t : State} (hexec : exec i s = .next t) : t.inputs = s.inputs := by
  rw [exec_frame hexec]
  cases i <;> rfl

/-- A step takes one input. -/
theorem stepOf_inputs {s t : State} (h : StepOf s t) : t.inputs = s.inputs.tail := by
  cases h with
  | run _ _ _ hexec => exact exec_inputs hexec
  | stored r v _ => exact storeReg_inputs s.afterTurn r v
  | idle | illegal | ignored | read | ctrl | softReset | status | dropped | accepted | level => rfl

theorem not_outsideInterface_of_admitted {e : Event} (h : e.admitted = true) : ¬ e.OutsideInterface := by
  cases e with
  | read width off => simpa [Event.admitted] using h
  | write width off v => simpa [Event.admitted] using h
  | sequencer => exact not_outsideInterface_sequencer
  | rstN b => exact not_outsideInterface_rstN b

/-- An admitted input is taken (R52). -/
theorem step_of_safeInputs {s : State} (hsafe : s.SafeInputs) : ∃ t, step s = .next t ∧ t.inputs = s.inputs.tail := by
  have hgood : ¬ s.BadAccessIsNext := by
    rintro ⟨e, rest, hinput, hbad⟩
    exact not_outsideInterface_of_admitted (hsafe e (by simp [hinput])) hbad
  obtain ⟨t, hstep⟩ := (step_refusedExactlyWhen s).next_of_not hgood
  exact ⟨t, hstep, stepOf_inputs (stepOf_of_step hstep)⟩

/-- With no input left the sequencer completes whatever is pending (R141). -/
theorem step_of_no_input_pend {s t : State} (hnone : s.inputs = []) (hstep : step s = .next t) : t.pend = none := by
  rw [step_of_no_input hnone] at hstep
  by_cases hpend : s.pend = none
  · obtain rfl := Host.Outcome.next.inj ((sequencerTurn_of_idle hpend).symm.trans hstep)
    exact hpend
  · exact (sequencerTurn_of_pending hpend hstep).2

theorem run_succ {s t : State} (hstep : step s = .next t) (n : Nat) :
    Host.Core.run Sys2Proof.core (n + 1) s = Host.Core.run Sys2Proof.core n t := by
  have hcore : Sys2Proof.core.step s = .next t := hstep
  simp only [Host.Core.run, hcore]

theorem run_inputs {l : List Event} {s : State} (hl : s.inputs = l) (hsafe : s.SafeInputs) :
    ∃ t, Host.Core.run Sys2Proof.core (l.length + 1) s = .next t ∧ t.inputs = [] ∧ t.pend = none := by
  induction l generalizing s with
  | nil =>
    obtain ⟨t, hstep, hinputs⟩ := step_of_safeInputs hsafe
    exact ⟨t, run_succ hstep 0, by rw [hinputs, hl]; rfl, step_of_no_input_pend hl hstep⟩
  | cons e rest ih =>
    obtain ⟨t, hstep, hinputs⟩ := step_of_safeInputs hsafe
    rw [hl, List.tail_cons] at hinputs
    rw [List.length_cons, run_succ hstep]
    exact ih hinputs fun e' he' => hsafe e' (by rw [hl]; exact List.mem_cons_of_mem _ (hinputs ▸ he'))

/-- Settles O58: one step for each input, and the last with no input left. -/
theorem pendingCommandsComplete : Obligations.PendingCommandsComplete := fun _ hsafe => run_inputs rfl hsafe

/-! ### The invariant (R33, R39, R42, R117, R123, R127, R136, R137) -/

/-- What the invariant says of the session, by its three fields. -/
structure SessionInv (padcnt : BitVec 8) (slen : BitVec 2) (acc : Vector Word 8) : Prop where
  slen_iff_padcnt : slen = 0#2 ↔ padcnt = 0#8
  slen_not_reserved : slen ≠ 3#2
  acc_of_empty_session : slen = 0#2 → acc = Vector.replicate 8 0#32
  acc_upper_half : slen = 1#2 → ∀ k, 4 ≤ k → acc.toList.getD k 0#32 = 0#32

theorem BlockInv.session {s : State} (h : BlockInv s) : SessionInv s.padcnt s.slen s.acc :=
  ⟨h.slen_iff_padcnt, h.slen_not_reserved, h.acc_of_empty_session, h.acc_upper_half⟩

theorem sessionInv_empty : SessionInv 0#8 0#2 (Vector.replicate 8 0#32) :=
  ⟨by decide, by decide, fun _ => rfl, fun h => absurd h (by decide)⟩

theorem padcntNext_ne_zero (p : BitVec 8) : padcntNext p ≠ 0#8 := by
  intro h
  have hnext := toNat_padcntNext p
  rw [h, BitVec.toNat_ofNat] at hnext
  omega

/-- An ACCUM of a pad that fits keeps the session's invariant: above a 128-bit pad ACC is not written. -/
theorem sessionInv_xorAcc {s : State} (h : SessionInv s.padcnt s.slen s.acc) {z : Size}
    (hfits : s.slen = 0#2 ∨ s.slen = z.slen) : SessionInv (padcntNext s.padcnt) z.slen (s.xorAcc z) := by
  have hnonzero : z.slen ≠ 0#2 := by cases z <;> decide
  refine ⟨iff_of_false hnonzero (padcntNext_ne_zero _), by cases z <;> decide, fun hzero => absurd hzero hnonzero,
    fun hone k hk => ?_⟩
  have hz : z = .words12 := by
    cases z with
    | words12 => rfl
    | words24 => cases hone
  subst hz
  rcases Nat.lt_or_ge k 8 with h8 | h8
  · have hold : s.accWord k = 0#32 := by
      rcases hfits with hempty | hsame
      · rw [accWord_of_lt s h8]
        simp [h.acc_of_empty_session hempty]
      · exact h.acc_upper_half hsame k hk
    have hpast : ¬ k < Size.words12.entW / 32 := Nat.not_lt.2 hk
    rw [getD_toList_of_lt _ _ h8, xorAcc_getElem s _ h8, if_neg hpast, ← accWord_of_lt s h8, hold]
  · exact getD_toList_of_le _ _ h8

theorem sessionInv_outcomeAt {s : State} (h : SessionInv s.padcnt s.slen s.acc) (i : Instr) :
    SessionInv (outcomeAt i s).writes.padcnt (outcomeAt i s).writes.slen (outcomeAt i s).writes.acc := by
  cases i with
  | clrsess => exact sessionInv_empty
  | accum =>
    by_cases hother : s.slen ≠ 0#2 ∧ s.slen ≠ s.size.slen
    · rw [outcomeAt, accumOutcome_of_otherLength hother]
      exact h
    · rw [outcomeAt, accumOutcome_of_fits hother]
      exact sessionInv_xorAcc h (by rwa [not_and_or, not_not, not_not] at hother)
  | lookup | wordat | validate | checksum | recover | encode | finalize =>
    rw [outcomeAt_ownWrites]
    exact h

/-- A command's own outcome reports neither WORDLIST_INTEGRITY nor a reserved code (R117, R127). -/
theorem outcomeAt_code (i : Instr) {s : State} (hfatal : s.fatal = false) :
    (outcomeAt i s).code.bits.toNat ≤ 8 ∧ (outcomeAt i s).code.bits ≠ 7#4 := by
  obtain ⟨o, ho, hexec⟩ := exec_eq_finish_outcomeOf i s
  have hfinish := Host.Outcome.next.inj ((exec_eq_outcomeAt i s).symm.trans hexec)
  rw [finish_of_not_fatal _ hfatal, finish_of_not_fatal _ hfatal] at hfinish
  have hcode : (outcomeAt i s).code.bits = o.code.bits := congrArg State.err hfinish
  rw [hcode]
  cases ho <;> simp [Code.bits]

/-- While RST_N = 0 nothing is pending. -/
theorem BlockInv.rstN_of_pending {s : State} (h : BlockInv s) (hpend : s.pend ≠ none) : s.rstN = true := by
  by_contra hlow
  have hheld := h.held_in_reset (Bool.eq_false_iff.2 hlow)
  exact hpend (congrArg State.pend hheld).symm

/-- The invariant says nothing of the inputs. -/
theorem BlockInv.afterTurn {s : State} (h : BlockInv s) : BlockInv s.afterTurn where
  fatal_is_check := h.fatal_is_check
  busy_not_done := h.busy_not_done
  err_not_reserved := h.err_not_reserved
  integrity_code_only_if_fatal := h.integrity_code_only_if_fatal
  fatal_is_inert := h.fatal_is_inert
  slen_iff_padcnt := h.slen_iff_padcnt
  slen_not_reserved := h.slen_not_reserved
  acc_of_empty_session := h.acc_of_empty_session
  acc_upper_half := h.acc_upper_half
  held_in_reset := fun hlow => congrArg State.afterTurn (h.held_in_reset hlow)

/-- The state after a reset, at either level of RST_N. -/
theorem blockInv_resetState (s : State) (b : Bool) : BlockInv { resetState s with rstN := b } where
  fatal_is_check := rfl
  busy_not_done := fun h => by simp at h
  err_not_reserved := by simp
  integrity_code_only_if_fatal := fun h => by simp at h
  fatal_is_inert := fun _ => ⟨.inl rfl, rfl, rfl, rfl, rfl⟩
  slen_iff_padcnt := sessionInv_empty.slen_iff_padcnt
  slen_not_reserved := sessionInv_empty.slen_not_reserved
  acc_of_empty_session := sessionInv_empty.acc_of_empty_session
  acc_upper_half := sessionInv_empty.acc_upper_half
  held_in_reset := fun _ => rfl

/-- A state with the fields of `s` that the invariant speaks of, but for DONE, which may have fallen. -/
structure SameInvFields (t s : State) : Prop where
  fatal_eq : t.fatal = s.fatal
  pend_eq : t.pend = s.pend
  done_le : s.done = false → t.done = false
  err_eq : t.err = s.err
  result_eq : t.result = s.result
  invmask_eq : t.invmask = s.invmask
  padcnt_eq : t.padcnt = s.padcnt
  slen_eq : t.slen = s.slen
  acc_eq : t.acc = s.acc
  rstN_eq : t.rstN = s.rstN

/-- Out of reset the invariant is kept by whatever keeps its fields. -/
theorem BlockInv.of_sameInvFields {s t : State} (h : BlockInv s) (hrst : s.rstN = true) (hsame : SameInvFields t s) :
    BlockInv t := by
  obtain ⟨hfatal, hpend, hdone, herr, hresult, hinvmask, hpadcnt, hslen, hacc, hlevel⟩ := hsame
  constructor
  · rw [hfatal]; exact h.fatal_is_check
  · rw [hpend, herr]
    exact fun hp => ⟨hdone (h.busy_not_done hp).1, (h.busy_not_done hp).2⟩
  · rw [herr]; exact h.err_not_reserved
  · rw [herr, hfatal]; exact h.integrity_code_only_if_fatal
  · rw [hfatal, herr, hresult, hinvmask, hpadcnt, hslen]; exact h.fatal_is_inert
  · rw [hslen, hpadcnt]; exact h.slen_iff_padcnt
  · rw [hslen]; exact h.slen_not_reserved
  · rw [hslen, hacc]; exact h.acc_of_empty_session
  · intro hone k hk
    rw [State.accWord, hacc]
    exact h.acc_upper_half (hslen.symm.trans hone) k hk
  · rw [hlevel, hrst]; exact fun hlow => nomatch hlow

theorem blockInv_accept {s : State} (h : BlockInv s) (hrst : s.rstN = true) (c : Word) : BlockInv (accept s c) where
  fatal_is_check := h.fatal_is_check
  busy_not_done := fun _ => ⟨rfl, rfl⟩
  err_not_reserved := by simp
  integrity_code_only_if_fatal := fun h => by simp at h
  fatal_is_inert := fun hfatal => ⟨.inl rfl, (h.fatal_is_inert hfatal).2⟩
  slen_iff_padcnt := h.slen_iff_padcnt
  slen_not_reserved := h.slen_not_reserved
  acc_of_empty_session := h.acc_of_empty_session
  acc_upper_half := h.acc_upper_half
  held_in_reset := fun hlow => by simp [hrst] at hlow

/-- WORDLIST_INTEGRITY, the one completion of a block with a bad list (R127). -/
theorem blockInv_integrity {s : State} (h : BlockInv s) (hrst : s.rstN = true) (hfatal : s.fatal = true) :
    BlockInv (s.completedAs 7#4) where
  fatal_is_check := h.fatal_is_check
  busy_not_done := fun h => by simp at h
  err_not_reserved := by simp
  integrity_code_only_if_fatal := fun _ => hfatal
  fatal_is_inert := fun _ => ⟨.inr rfl, (h.fatal_is_inert hfatal).2⟩
  slen_iff_padcnt := h.slen_iff_padcnt
  slen_not_reserved := h.slen_not_reserved
  acc_of_empty_session := h.acc_of_empty_session
  acc_upper_half := h.acc_upper_half
  held_in_reset := fun hlow => by simp [hrst] at hlow

/-- A completion of a block with a sound list, with one of its codes and a session that meets the invariant. -/
theorem blockInv_completedAs {w : State} {code : BitVec 4} (hcheck : w.fatal = !wordlistOk Config.WORDLIST)
    (hrst : w.rstN = true) (hfatal : w.fatal = false) (hcode : code.toNat ≤ 8 ∧ code ≠ 7#4)
    (hsession : SessionInv w.padcnt w.slen w.acc) : BlockInv (w.completedAs code) where
  fatal_is_check := hcheck
  busy_not_done := fun h => by simp at h
  err_not_reserved := hcode.1
  integrity_code_only_if_fatal := fun h => absurd h hcode.2
  fatal_is_inert := fun h => by simp [hfatal] at h
  slen_iff_padcnt := hsession.slen_iff_padcnt
  slen_not_reserved := hsession.slen_not_reserved
  acc_of_empty_session := hsession.acc_of_empty_session
  acc_upper_half := hsession.acc_upper_half
  held_in_reset := fun hlow => by simp [hrst] at hlow

theorem outcomeAt_fatal_rstN (i : Instr) (s : State) :
    (outcomeAt i s).writes.fatal = s.fatal ∧ (outcomeAt i s).writes.rstN = s.rstN := by
  rw [outcomeAt_ownWrites]
  cases i <;> exact ⟨rfl, rfl⟩

theorem blockInv_exec {i : Instr} {s t : State} (h : BlockInv s) (hrst : s.rstN = true) (hexec : exec i s = .next t) :
    BlockInv t := by
  rcases exec_next_cases hexec with ⟨hfatal, rfl⟩ | ⟨hfatal, rfl⟩
  · exact blockInv_integrity h hrst hfatal
  · obtain ⟨hsameFatal, hsameRst⟩ := outcomeAt_fatal_rstN i s
    exact blockInv_completedAs (hsameFatal.trans h.fatal_is_check) (hsameRst.trans hrst) (hsameFatal.trans hfatal)
      (outcomeAt_code i hfatal) (sessionInv_outcomeAt h.session i)

theorem blockInv_illegal {s : State} (h : BlockInv s) (hrst : s.rstN = true) :
    BlockInv (s.completedAs (if s.fatal then 7#4 else 8#4)) := by
  cases hfatal : s.fatal with
  | true => exact blockInv_integrity h hrst hfatal
  | false => exact blockInv_completedAs h.fatal_is_check hrst hfatal (by decide) h.session

theorem storeReg_sameInvFields (s : State) (r : Reg) (v : Word) : SameInvFields (storeReg s r v) s := by
  obtain ⟨n, l, w, e, m, hstore⟩ := storeReg_frame s r v
  rw [hstore]
  exact ⟨rfl, rfl, id, rfl, rfl, rfl, rfl, rfl, rfl, rfl⟩

theorem blockInv_of_stepOf {s t : State} (hinv : BlockInv s) (hstep : StepOf s t) : BlockInv t := by
  have h : BlockInv s.afterTurn := hinv.afterTurn
  cases hstep with
  | idle | ignored => exact h
  | run _ hpend _ hexec => exact blockInv_exec h (hinv.rstN_of_pending (by simp [hpend])) hexec
  | illegal _ hpend => exact blockInv_illegal h (hinv.rstN_of_pending hpend)
  | read off hrst => exact h.of_sameInvFields hrst ⟨rfl, rfl, id, rfl, rfl, rfl, rfl, rfl, rfl, rfl⟩
  | ctrl ie hrst => exact h.of_sameInvFields hrst ⟨rfl, rfl, id, rfl, rfl, rfl, rfl, rfl, rfl, rfl⟩
  | dropped _ _ hrst => exact h.of_sameInvFields hrst ⟨rfl, rfl, id, rfl, rfl, rfl, rfl, rfl, rfl, rfl⟩
  | status v hrst =>
    have hfalls (hd : s.done = false) : (s.afterTurn.statusWrite v).done = false := by
      rw [statusWrite_done, afterTurn_done, hd, Bool.false_and]
    exact h.of_sameInvFields hrst ⟨rfl, rfl, hfalls, rfl, rfl, rfl, rfl, rfl, rfl, rfl⟩
  | stored r v hrst => exact h.of_sameInvFields hrst (storeReg_sameInvFields _ r v)
  | accepted c hrst => exact blockInv_accept h hrst c
  | softReset => exact blockInv_resetState s.afterTurn s.rstN
  | level b => exact blockInv_resetState s.afterTurn b

/-- Settles O56: the reset state is what a reset leaves of it. -/
theorem resetMeetsTheInvariant : Obligations.ResetMeetsTheInvariant := blockInv_resetState State.reset true

/-- Settles O57: each way of a step keeps the invariant. -/
theorem stepKeepsTheInvariant : Obligations.StepKeepsTheInvariant := fun _ _ hinv hstep =>
  blockInv_of_stepOf hinv (stepOf_of_step hstep)

end Sys2Proof.Machine

/-! The strings the commands read and write, position by position (spec/00_scope.md R15 to R19; spec/20_memory.md R55 to
R58; spec/41_codec.md R85 to R91), and the words of the registers field by field (spec/10_state.md R31 to R44). -/

namespace Sys2Proof.Machine

/-! ### Strings made of groups of one length -/

/-- Group k of a string that is a sequence of groups of n. -/
theorem take_drop_flatMap {α β : Type} {f : α → List β} {n : Nat} (hf : ∀ a, (f a).length = n) {l : List α} {k : Nat}
    (hk : k < l.length) : ((l.flatMap f).drop (n * k)).take n = f l[k] := by
  induction l generalizing k with
  | nil => simp at hk
  | cons a l ih =>
    cases k with
    | zero => simp [← hf a]
    | succ k =>
      have hskip : n * (k + 1) = (f a).length + n * k := by rw [hf, Nat.mul_succ, Nat.add_comm]
      rw [List.flatMap_cons, hskip, List.drop_length_add_append, ih (Nat.lt_of_succ_lt_succ hk), List.getElem_cons_succ]

/-- Position j of group k. -/
theorem getElem?_flatMap {α β : Type} {f : α → List β} {n : Nat} (hf : ∀ a, (f a).length = n) {l : List α} {k j : Nat}
    (hk : k < l.length) (hj : j < n) : (l.flatMap f)[n * k + j]? = (f l[k])[j]? := by
  rw [← take_drop_flatMap hf hk, List.getElem?_take_of_lt hj, List.getElem?_drop]

/-- Position j of `bin_n(v)` is bit n − 1 − j of v (R16). -/
theorem getElem?_bin {n v j : Nat} (hj : j < n) : (bin n v)[j]? = some (v.testBit (n - 1 - j)) := by
  induction n generalizing j with
  | zero => omega
  | succ n ih =>
    cases j with
    | zero => rfl
    | succ j =>
      rw [bin_succ, List.getElem?_cons_succ, ih (Nat.lt_of_succ_lt_succ hj)]
      congr 2
      omega

theorem getElem?_bin_toNat {n w j : Nat} (x : BitVec w) (hj : j < n) :
    (bin n x.toNat)[j]? = some (x.getLsbD (n - 1 - j)) := getElem?_bin hj

/-! ### Bytes of registers (R40, R56, R87) -/

theorem byteAt_wordBytes (w : Word) {j : Nat} (hj : j < 4) : byteAt (wordBytes w) j = w.extractLsb' (24 - 8 * j) 8 := by
  interval_cases j <;> rfl

theorem byteAt_flatMap_wordBytes {ws : List Word} {k j : Nat} (hk : k < ws.length) (hj : j < 4) :
    byteAt (ws.flatMap wordBytes) (4 * k + j) = ws[k].extractLsb' (24 - 8 * j) 8 := by
  rw [← byteAt_wordBytes _ hj, byteAt, byteAt, List.getD_eq_getElem?_getD, List.getD_eq_getElem?_getD,
    getElem?_flatMap length_wordBytes hk hj]

@[simp] theorem length_wbufBytes (s : State) : s.wbufBytes.length = 16 := by
  simp [State.wbufBytes, List.length_flatMap]

theorem byteAt_wbufBytes (s : State) {k j : Nat} (hk : k < 4) (hj : j < 4) :
    byteAt s.wbufBytes (4 * k + j) = s.wbuf[k].extractLsb' (24 - 8 * j) 8 := by
  rw [State.wbufBytes, byteAt_flatMap_wordBytes (by simpa using hk) hj, Vector.getElem_toList]

/-- Settles O22: the hashed bytes are those of the registers, four of each. -/
theorem hashedBytesAreTheRegisterBytes : Obligations.HashedBytesAreTheRegisterBytes := by
  intro s z
  refine ⟨by rw [length_bitsBytes, length_entbits], fun j hj => ?_⟩
  have hreg : j / 4 < z.entW / 32 := by cases z <;> simp only [Size.entW] at hj ⊢ <;> omega
  have h8 : j / 4 < 8 := by cases z <;> simp only [Size.entW] at hreg <;> omega
  have hfile : j / 4 < (s.ent.toList.take (z.entW / 32)).length := by simp [hreg, h8]
  have hj4 : j = 4 * (j / 4) + j % 4 := by omega
  conv_lhs => rw [hj4, bitsBytes_entbits]
  rw [byteAt_flatMap_wordBytes hfile (Nat.mod_lt j (by decide)), List.getElem_take, Vector.getElem_toList,
    entWord_of_lt s h8]

/-- Two byte strings of one length with the same bytes. -/
theorem eq_of_byteAt {a b : List Byte} (hlength : a.length = b.length) (h : ∀ j < a.length, byteAt a j = byteAt b j) :
    a = b := by
  refine List.ext_getElem hlength fun j ha hb => ?_
  have hj := h j ha
  rwa [byteAt, byteAt, List.getD_eq_getElem _ _ ha, List.getD_eq_getElem _ _ hb] at hj

/-- The bytes of the register that holds four bytes are those bytes (R56). -/
theorem extractLsb'_bytesWord (b : List Byte) (k : Nat) {j : Nat} (hj : j < 4) :
    (bytesWord b k).extractLsb' (24 - 8 * j) 8 = byteAt b (4 * k + j) := by
  rw [bytesWord]
  interval_cases j
  · rw [BitVec.extractLsb'_append_eq_of_le (by decide), BitVec.extractLsb'_append_eq_of_le (by decide)]
    exact extractLsb'_append_left _ _
  · rw [BitVec.extractLsb'_append_eq_of_le (by decide), BitVec.extractLsb'_append_eq_of_le (by decide)]
    exact extractLsb'_append_right _ _
  · rw [BitVec.extractLsb'_append_eq_of_le (by decide)]
    exact extractLsb'_append_right _ _
  · exact extractLsb'_append_right _ _

/-- WBUF holds the 16 bytes written to it (R83). -/
theorem wbufBytes_putWbuf (s : State) {b : List Byte} (hb : b.length = 16) : (s.putWbuf b).wbufBytes = b := by
  refine eq_of_byteAt (by rw [length_wbufBytes, hb]) fun j hj => ?_
  rw [length_wbufBytes] at hj
  have hj4 : j = 4 * (j / 4) + j % 4 := by omega
  have hmod : j % 4 < 4 := Nat.mod_lt j (by decide)
  rw [hj4, byteAt_wbufBytes _ (by omega) hmod, ← extractLsb'_bytesWord b _ hmod]
  simp

/-- The register that holds the four bytes of a register is that register (R56). -/
theorem append_bytes (w : Word) :
    w.extractLsb' 24 8 ++ w.extractLsb' 16 8 ++ w.extractLsb' 8 8 ++ w.extractLsb' 0 8 = w := by
  have hhigh : w.extractLsb' 24 8 ++ w.extractLsb' 16 8 = w.extractLsb' 16 16 :=
    BitVec.extractLsb'_append_extractLsb'_eq_extractLsb' rfl
  have hupper : w.extractLsb' 16 16 ++ w.extractLsb' 8 8 = w.extractLsb' 8 24 :=
    BitVec.extractLsb'_append_extractLsb'_eq_extractLsb' rfl
  rw [hhigh, hupper]
  exact (eq_extractLsb'_append (m := 24) (n := 8) w).symm

theorem bytesWord_wbufBytes (s : State) {k : Nat} (hk : k < 4) : bytesWord s.wbufBytes k = s.wbuf[k] := by
  have hbyte (j : Nat) (hj : j < 4) := byteAt_wbufBytes s hk hj
  rw [bytesWord, hbyte 1 (by decide), hbyte 2 (by decide), hbyte 3 (by decide), ← Nat.add_zero (4 * k),
    hbyte 0 (by decide)]
  exact append_bytes _

/-- Writing back the bytes of WBUF changes nothing. -/
theorem putWbuf_wbufBytes (s t : State) : (t.putWbuf s.wbufBytes).wbuf = s.wbuf := by
  refine Vector.ext fun k hk => ?_
  rw [putWbuf_wbuf, Vector.getElem_ofFn, bytesWord_wbufBytes s hk]

/-! ### Packed indices (R85, R86) -/

theorem slice_pack (s : State) {n j : Nat} (hj : j < n) :
    slice (s.pack n) (IDXW * j) IDXW = bin IDXW (s.slot j).idx.toNat := by
  have hgroup := take_drop_flatMap (f := fun i => bin IDXW (s.slot i).idx.toNat) (fun _ => length_bin _ _)
    (l := List.range n) (k := j) (by simpa using hj)
  rwa [List.getElem_range] at hgroup

theorem idx_val_bin_toNat (i : Idx) : idx (val (bin IDXW i.toNat)) = i := by
  rw [val_bin, Nat.mod_eq_of_lt i.isLt, idx, BitVec.ofNat_toNat, BitVec.setWidth_eq]

theorem split_pack (s : State) (n : Nat) : split (s.pack n) = (List.range n).map fun j => (s.slot j).idx := by
  have hcount : (s.pack n).length / IDXW = n := by rw [length_pack, Nat.mul_div_cancel_left n (by decide)]
  rw [split, hcount]
  refine List.map_congr_left fun j hj => ?_
  rw [slice_pack s (List.mem_range.1 hj), idx_val_bin_toNat]

/-- Settles O21: group j of the packed indices is the index of slot j. -/
theorem splitOfPackIsTheIndices : Obligations.SplitOfPackIsTheIndices := fun s n _ => split_pack s n

/-! ### The strings as register bits (R19, R41, R42, R55, R58) -/

theorem getElem?_fileBits (rs : Vector Word 8) (z : Size) (k : Fin 8) {j : Nat} (hk : k.val < z.entW / 32)
    (hj : j < 32) : (fileBits rs z)[32 * k.val + j]? = some (rs[k].getLsbD (31 - j)) := by
  have hfile : k.val < (rs.toList.take (z.entW / 32)).length := by simp [hk]
  rw [fileBits, regBits, getElem?_flatMap length_wordBits hfile hj, List.getElem_take, Vector.getElem_toList]
  exact getElem?_bin_toNat _ hj

/-- The low bits of a slot's word are its index (R43). -/
theorem getLsbD_slotWord (x : Slot) {i : Nat} (hi : i < 11) : x.word.getLsbD i = x.idx.getLsbD i := by
  rw [Slot.word, BitVec.getLsbD_append, if_pos hi]

theorem getElem?_pack (s : State) {n j : Nat} (i : Fin 24) (hi : i.val < n) (hj : j < 11) :
    (s.pack n)[11 * i.val + j]? = some (s.mn[i].word.getLsbD (10 - j)) := by
  have hgroup := getElem?_flatMap (f := fun i => bin IDXW (s.slot i).idx.toNat) (fun _ => length_bin _ _)
    (l := List.range n) (k := i.val) (by simpa using hi) hj
  rw [List.getElem_range] at hgroup
  rw [getLsbD_slotWord _ (by omega)]
  refine hgroup.trans ((getElem?_bin_toNat _ hj).trans ?_)
  rw [slot_of_lt s i.isLt]
  rfl

/-- Settles O60: each string is its registers' bits or bytes, group by group. -/
theorem stringsAreTheRegisterBits : Obligations.StringsAreTheRegisterBits := by
  intro s
  refine ⟨⟨length_wbufBytes s, fun k j hj => byteAt_wbufBytes s k.isLt hj⟩, fun z => ⟨length_entbits s z,
    length_accbits s z, fun k j hk hj => ⟨getElem?_fileBits s.ent z k hk hj, getElem?_fileBits s.acc z k hk hj⟩⟩,
    fun n _ => ⟨length_pack s n, fun i j hi hj => getElem?_pack s i hi hj⟩⟩

/-! ### The words of the registers (R31 to R44) -/

theorem getLsbD_ofBool_append_zero {n : Nat} (a : BitVec n) (b : Bool) : (a ++ BitVec.ofBool b).getLsbD 0 = b := by
  simp [BitVec.getElem_append]

/-- The flags of STATUS, bits 0 to 3 (R33). -/
theorem getLsbD_statusWord (s : State) :
    s.statusWord.getLsbD 0 = s.busy ∧ s.statusWord.getLsbD 1 = s.done ∧ s.statusWord.getLsbD 2 = s.ovr ∧
      s.statusWord.getLsbD 3 = s.fatal := by
  simp only [State.statusWord, BitVec.getLsbD_append]
  simp

/-- The fields of STATUS above its flags (R33). -/
theorem extractLsb'_statusWord (s : State) :
    s.statusWord.extractLsb' 4 4 = 0#4 ∧ s.statusWord.extractLsb' 8 4 = s.err ∧
      s.statusWord.extractLsb' 12 20 = 0#20 := by
  have hflags (start len : Nat) (hstart : 4 ≤ start) :
      s.statusWord.extractLsb' start len = (0#20 ++ s.err ++ 0#4).extractLsb' (start - 4) len := by
    rw [State.statusWord, BitVec.extractLsb'_append_eq_of_le (by omega), BitVec.extractLsb'_append_eq_of_le (by omega),
      BitVec.extractLsb'_append_eq_of_le (by omega), BitVec.extractLsb'_append_eq_of_le (by omega)]
    rfl
  refine ⟨?_, ?_, ?_⟩
  · rw [hflags 4 4 (by decide)]
    exact extractLsb'_append_right _ _
  · rw [hflags 8 4 (by decide), BitVec.extractLsb'_append_eq_of_le (by decide)]
    exact extractLsb'_append_right _ _
  · rw [hflags 12 20 (by decide), BitVec.extractLsb'_append_eq_of_le (by decide)]
    exact extractLsb'_append_left _ _

theorem slotWord_fields (x : Slot) :
    x.word.getLsbD 31 = x.v ∧ x.word.extractLsb' 11 20 = 0#20 ∧ x.word.extractLsb' 0 11 = x.idx := by
  refine ⟨?_, ?_, extractLsb'_append_right _ _⟩
  · simp only [Slot.word, BitVec.getLsbD_append]
    simp
  · rw [Slot.word, BitVec.extractLsb'_append_eq_of_le (by decide)]
    exact extractLsb'_append_right _ _

theorem sessionWord_fields (s : State) :
    s.sessionWord.extractLsb' 0 8 = s.padcnt ∧ s.sessionWord.extractLsb' 8 2 = s.slen ∧
      s.sessionWord.extractLsb' 10 22 = 0#22 := by
  refine ⟨extractLsb'_append_right _ _, ?_, ?_⟩
  · rw [State.sessionWord, BitVec.extractLsb'_append_eq_of_le (by decide)]
    exact extractLsb'_append_right _ _
  · rw [State.sessionWord, BitVec.extractLsb'_append_eq_of_le (by decide)]
    exact extractLsb'_append_left _ _

/-- Settles O59: each word is the concatenation of its fields. -/
theorem registerWordsAreTheFields : Obligations.RegisterWordsAreTheFields := by
  intro s
  obtain ⟨hbusy, hdone, hovr, hfatal⟩ := getLsbD_statusWord s
  obtain ⟨hlow, herr, hhigh⟩ := extractLsb'_statusWord s
  refine ⟨rfl, rfl, ⟨getLsbD_ofBool_append_zero _ _, extractLsb'_append_left _ _⟩,
    ⟨?_, hdone, hovr, hfatal, hlow, herr, hhigh⟩, rfl, ⟨extractLsb'_append_right _ _, extractLsb'_append_left _ _⟩,
    ⟨extractLsb'_append_right _ _, extractLsb'_append_left _ _⟩,
    ⟨getLsbD_ofBool_append_zero _ _, extractLsb'_append_left _ _⟩, sessionWord_fields s, fun _ => rfl,
    fun k => ⟨rfl, (entWord_of_lt s k.isLt).symm⟩, fun k => ⟨rfl, (accWord_of_lt s k.isLt).symm⟩, fun i => ?_⟩
  · rw [← busy_eq_true_iff]
    exact iff_of_eq (congrArg (· = true) hbusy)
  · obtain ⟨hv, hzeros, hidx⟩ := slotWord_fields s.mn[i]
    exact ⟨hv, hzeros, hidx, slot_of_lt s i.isLt⟩

/-! ### SHA-256 and the checksum (R88 to R91) -/

/-- Settles O23: the model's SHA-256 evaluated on the two messages. -/
theorem sha256KnownAnswers : Obligations.Sha256KnownAnswers := by
  unfold Obligations.Sha256KnownAnswers
  decide +kernel

/-- Settles O24: CHK is a front of the hash, of which the first byte is four or eight bits. -/
theorem checksumIsTheHashsFirstBits : Obligations.ChecksumIsTheHashsFirstBits := fun e _ =>
  ⟨rfl, chk_four e, chk_eight e⟩

/-- Settles O20: `put_ent` writes what `entbits` reads back, and 0 past it. -/
theorem entropyRegistersHoldTheString : Obligations.EntropyRegistersHoldTheString := fun s _ _ he =>
  ⟨entbits_putEnt s he, fun _ hk => entWord_putEnt_of_le s he hk⟩

end Sys2Proof.Machine

/-! The word list as a bijection (spec/40_wordlist.md R79, R80, R83, R84): padding loses nothing of an entry without
zero bytes, so LOOKUP and WORDAT are inverse to each other. -/

namespace Sys2Proof.Machine

/-! ### Padding (R79) -/

theorem length_pad16 {w : List Byte} (hw : w.length ≤ 16) : (pad16 w).length = 16 := by
  rw [pad16, List.length_append, List.length_replicate, Nat.add_sub_of_le hw]

/-- Two strings without zero bytes that read alike, byte by byte, end at one place and so are one string. -/
theorem eq_of_pad16_eq {w w' : List Byte} (hw : ∀ b ∈ w, b ≠ 0x00#8) (hw' : ∀ b ∈ w', b ≠ 0x00#8)
    (h : pad16 w = pad16 w') : w = w' := by
  have hbytes (j : Nat) : byteAt w j = byteAt w' j := by rw [← byteAt_pad16 w, h, byteAt_pad16]
  have hends (j : Nat) : w.length ≤ j ↔ w'.length ≤ j := by
    rw [← byteAt_eq_zero_iff hw, ← byteAt_eq_zero_iff hw', hbytes]
  exact eq_of_byteAt (le_antisymm ((hends _).2 le_rfl) ((hends _).1 le_rfl)) fun j _ => hbytes j

/-- The padded entries of a list that passes the check are distinct. -/
theorem pad16_entry_injective {W : Idx → List Byte} (hW : wordlistOk W = true) :
    Function.Injective fun i => pad16 (W i) := by
  obtain ⟨hentries, hdistinct⟩ := (wordlistOk_iff W).1 hW
  intro i j h
  obtain ⟨-, -, hi⟩ := hentries i
  obtain ⟨-, -, hj⟩ := hentries j
  by_contra hne
  exact hdistinct i j hne (eq_of_pad16_eq hi hj h)

/-! ### The index of a buffer (R80) -/

theorem indexOf_eq_none_iff {W : Idx → List Byte} {b : List Byte} : indexOf W b = none ↔ ∀ i, pad16 (W i) ≠ b := by
  rw [indexOf, Option.map_eq_none_iff, List.find?_eq_none]
  simp only [decide_eq_true_eq]
  exact forall_mem_indices (p := fun i => ¬ pad16 (W i) = b)

/-- Under the check a padded entry is found at its own index. -/
theorem indexOf_pad16 {W : Idx → List Byte} (hW : wordlistOk W = true) (i : Idx) :
    indexOf W (pad16 (W i)) = some i := by
  cases hfind : indexOf W (pad16 (W i)) with
  | none => exact absurd rfl (indexOf_eq_none_iff.1 hfind i)
  | some j => rw [pad16_entry_injective hW (pad16_of_indexOf_eq_some hfind)]

/-- Settles O15: what is found has the buffer as its padding, nothing is found when nothing has, and under the check no
two paddings are equal. -/
theorem indexOfFindsThePaddedEntry : Obligations.IndexOfFindsThePaddedEntry := fun _ _ =>
  ⟨fun _ => pad16_of_indexOf_eq_some, indexOf_eq_none_iff, fun hW i hi => hi ▸ indexOf_pad16 hW i⟩

/-! ### WORDAT leaves the padded entry (R83) -/

theorem wordatOutcome_wbufBytes {W : Idx → List Byte} {i : Idx} (s : State) (hlength : (W i).length ≤ 16) :
    (wordatOutcome W i s).writes.wbufBytes = pad16 (W i) := wbufBytes_putWbuf s (length_pad16 hlength)

/-- Settles O18: the 16 bytes written are read back. -/
theorem wordatLeavesThePaddedEntry : Obligations.WordatLeavesThePaddedEntry := fun _ _ s _ hlength =>
  wordatOutcome_wbufBytes s hlength

/-! ### LOOKUP against WORDAT (R84) -/

theorem lookupOutcome_code_eq_ok_iff {W : Idx → List Byte} {slot : Nat} {s : State} :
    (lookupOutcome W slot s).code = .ok ↔ ∃ r, indexOf W s.wbufBytes = some r := by
  cases hfind : indexOf W s.wbufBytes with
  | none => rw [lookupOutcome_of_notFound slot hfind]; simp
  | some r => rw [lookupOutcome_of_found slot hfind]; simp

theorem lookupOutcome_slot {W : Idx → List Byte} {slot : Nat} {s : State} {r : Idx} (hslot : slot ≤ 23)
    (hfind : indexOf W s.wbufBytes = some r) : (lookupOutcome W slot s).writes.slot slot = { v := true, idx := r } := by
  rw [lookupOutcome_of_found slot hfind]
  exact slot_putSlot_self s _ (by omega)

/-- The word buffer that WORDAT leaves for index `i`. -/
def entryBuffer (W : Idx → List Byte) (i : Idx) : Vector Word 4 := Vector.ofFn fun k => bytesWord (pad16 (W i)) k.val

theorem wordatOutcome_wbuf (W : Idx → List Byte) (i : Idx) (s : State) :
    (wordatOutcome W i s).writes.wbuf = entryBuffer W i := rfl

section Bijection

variable {W : Idx → List Byte} (hW : wordlistOk W = true)
include hW

theorem wbufBytes_of_entryBuffer (s : State) (i : Idx) :
    ({ s with wbuf := entryBuffer W i } : State).wbufBytes = pad16 (W i) := by
  obtain ⟨hentries, -⟩ := (wordlistOk_iff W).1 hW
  obtain ⟨-, hlength, -⟩ := hentries i
  exact wbufBytes_putWbuf s (length_pad16 hlength)

/-- The index is found in the buffer exactly when the buffer is the entry's. -/
theorem indexOf_wbufBytes_eq_some_iff {s : State} {i : Idx} :
    indexOf W s.wbufBytes = some i ↔ s.wbuf = entryBuffer W i := by
  constructor
  · intro hfind
    rw [entryBuffer, pad16_of_indexOf_eq_some hfind]
    exact (putWbuf_wbufBytes s s).symm
  · intro hbuffer
    have hbytes := wbufBytes_of_entryBuffer hW s i
    rw [← hbuffer] at hbytes
    rw [← indexOf_pad16 hW i]
    exact congrArg (indexOf W) hbytes

theorem entryBuffer_injective : Function.Injective (entryBuffer W) := by
  intro i j h
  have hi : indexOf W ({ State.reset with wbuf := entryBuffer W i } : State).wbufBytes = some i :=
    (indexOf_wbufBytes_eq_some_iff hW).2 rfl
  have hj : indexOf W ({ State.reset with wbuf := entryBuffer W j } : State).wbufBytes = some j :=
    (indexOf_wbufBytes_eq_some_iff hW).2 rfl
  rw [h, hj] at hi
  exact (Option.some.inj hi).symm

theorem wordat_then_lookup (i : Idx) {slot : Nat} (hslot : slot ≤ 23) (s : State) :
    (lookupOutcome W slot (commit (wordatOutcome W i s))).code = .ok ∧
      (lookupOutcome W slot (commit (wordatOutcome W i s))).writes.slot slot = { v := true, idx := i } := by
  have hfind : indexOf W (commit (wordatOutcome W i s)).wbufBytes = some i :=
    (indexOf_wbufBytes_eq_some_iff hW).2 (wordatOutcome_wbuf W i s)
  exact ⟨lookupOutcome_code_eq_ok_iff.2 ⟨i, hfind⟩, lookupOutcome_slot hslot hfind⟩

theorem lookup_then_wordat {slot : Nat} (hslot : slot ≤ 23) {s : State} (hok : (lookupOutcome W slot s).code = .ok) :
    (wordatOutcome W ((lookupOutcome W slot s).writes.slot slot).idx (commit (lookupOutcome W slot s))).writes.wbuf =
      s.wbuf := by
  obtain ⟨r, hfind⟩ := lookupOutcome_code_eq_ok_iff.1 hok
  rw [lookupOutcome_slot hslot hfind, wordatOutcome_wbuf]
  exact ((indexOf_wbufBytes_eq_some_iff hW).1 hfind).symm

/-- The buffers that LOOKUP finds are those of the entries, and there are 2048 of them. -/
theorem ncard_found_buffers (slot : Nat) (s : State) :
    Set.ncard { b : Vector Word 4 | (lookupOutcome W slot { s with wbuf := b }).code = .ok } = 2048 := by
  have hrange : { b : Vector Word 4 | (lookupOutcome W slot { s with wbuf := b }).code = .ok } =
      Set.range (entryBuffer W) := by
    ext b
    rw [Set.mem_ofPred_eq, lookupOutcome_code_eq_ok_iff]
    exact exists_congr fun r => (indexOf_wbufBytes_eq_some_iff hW).trans eq_comm
  calc Set.ncard { b : Vector Word 4 | (lookupOutcome W slot { s with wbuf := b }).code = .ok }
      = Nat.card Idx := by rw [hrange, Set.ncard_range_of_injective (entryBuffer_injective hW)]
    _ = Nat.card (Fin (2 ^ 11)) := Nat.card_congr BitVec.equivFin.toEquiv
    _ = 2048 := Nat.card_fin _

end Bijection

/-- Settles O19: LOOKUP finds an index in a buffer exactly when WORDAT of it leaves that buffer. -/
theorem wordListIsABijection : Obligations.WordListIsABijection := fun _ hW =>
  ⟨fun i _ s hslot => wordat_then_lookup hW i hslot s, fun _ _ hslot hok => lookup_then_wordat hW hslot hok,
    fun slot s _ => ncard_found_buffers hW slot s⟩

end Sys2Proof.Machine

/-! RECOVER against ENCODE (spec/42_pad_recoverer.md R97 to R102; spec/44_seed_reconstructor.md R114): the search as
direct slicing, what a changed last word comes to, and the two commands as inverses. -/

namespace Sys2Proof.Machine

/-! ### The search (R97 to R99) -/

theorem search_of_chk {s : State} {z : Size}
    (hchk : chk ((s.pack z.nWords).take z.entW) z.csW = (s.pack z.nWords).drop z.entW) :
    search s z = some (s.directFound z) := search_eq_some_iff.2 ⟨hchk, rfl⟩

/-- The checksum bits are all the bits past the entropy (R94). -/
theorem slice_checksum_pack (s : State) (z : Size) :
    slice (s.pack z.nWords) z.entW z.csW = (s.pack z.nWords).drop z.entW := by
  refine List.take_of_length_le ?_
  rw [drop_pack_nWords, length_bin]

theorem val_slice_suffix_pack (s : State) (z : Size) :
    val (slice (s.pack z.nWords) (z.entW - z.addW) z.addW) = s.lastSuffix z := by
  have hwidth : z.entW - (z.entW - z.addW) = z.addW := by cases z <;> rfl
  rw [← val_drop_take_pack_nWords, List.drop_take, hwidth, slice]

/-- Settles O27: both forms compare the checksum of the first L bits with the bits that follow. -/
theorem searchEqualsDirectSlicing : Obligations.SearchEqualsDirectSlicing := by
  intro s z
  have hentropy : slice (s.pack z.nWords) 0 z.entW = (s.pack z.nWords).take z.entW := rfl
  simp only [searchDirect, hentropy, slice_checksum_pack, val_slice_suffix_pack]
  split
  next hchk => rw [search_of_chk hchk, State.directFound, hchk]
  next hchk => exact search_eq_none hchk

/-- Settles O28: the candidate that can match is the first L bits, and the checksum field of the last index is the
rest. -/
theorem onlyTheTopBitsOfTheLastIndexCanMatch : Obligations.OnlyTheTopBitsOfTheLastIndexCanMatch := by
  intro s z pre last cand
  have hcand : cand = (s.pack z.nWords).take z.entW := (take_pack_nWords s z).symm
  have hrest : bin z.csW (last % 2 ^ z.csW) = (s.pack z.nWords).drop z.entW := by rw [bin_mod, drop_pack_nWords]
  refine ⟨fun combo f hcombo htry => ((tryCombo_lastWord_eq_some_iff hcombo).1 htry).1, fun hchk => ?_, fun hchk => ?_⟩
  · rw [hcand, hrest] at hchk
    rw [search_of_chk hchk, State.directFound, hcand, hchk]
    rfl
  · rw [hcand, hrest] at hchk
    exact search_eq_none hchk

/-! ### RECOVER of a valid mnemonic (R100) -/

/-- RECOVER of a mnemonic whose checksum is right: the state it leaves. -/
theorem exec_recover_of_chk {s : State} {z : Size} (hfatal : s.fatal = false) (hholds : s.HoldsMnemonic z)
    (hchk : chk ((s.pack z.nWords).take z.entW) z.csW = (s.pack z.nWords).drop z.entW) :
    ∃ t, exec .recover s = .next t ∧ t.entbits z = (s.pack z.nWords).take z.entW ∧
      (∀ k, z.entW / 32 ≤ k → t.entWord k = 0#32) ∧
      ∃ e r, t = { s with ent := e, elen := z.elen, invmask := 0#24, result := r }.completedAs 0#4 := by
  obtain ⟨-, -, hrecover⟩ := recoverTakesTheEntropyOrFails
  obtain ⟨t, hexec, hent, hpast, ht⟩ := (hrecover s z hfatal hholds).1 hchk
  exact ⟨t, hexec, hent, hpast, _, _, ht⟩

theorem exec_recover_of_not_chk {s : State} {z : Size} (hfatal : s.fatal = false) (hholds : s.HoldsMnemonic z)
    (hchk : chk ((s.pack z.nWords).take z.entW) z.csW ≠ (s.pack z.nWords).drop z.entW) :
    exec .recover s = .next ({ s with result := 0#32, invmask := 0#24 }.completedAs 6#4) := by
  obtain ⟨-, -, hrecover⟩ := recoverTakesTheEntropyOrFails
  exact (hrecover s z hfatal hholds).2 hchk

/-- RECOVER of a valid mnemonic completes, and its code tells whether the checksum is right. -/
theorem recover_err {s : State} {z : Size} (hfatal : s.fatal = false) (hholds : s.HoldsMnemonic z) :
    ∃ t, exec .recover s = .next t ∧
      t.err = if chk ((s.pack z.nWords).take z.entW) z.csW = (s.pack z.nWords).drop z.entW then 0#4 else 6#4 := by
  by_cases hchk : chk ((s.pack z.nWords).take z.entW) z.csW = (s.pack z.nWords).drop z.entW
  · obtain ⟨t, hexec, -, -, e, r, rfl⟩ := exec_recover_of_chk hfatal hholds hchk
    exact ⟨_, hexec, (if_pos hchk).symm⟩
  · exact ⟨_, exec_recover_of_not_chk hfatal hholds hchk, (if_neg hchk).symm⟩

/-- A RECOVER that completed OK had a right checksum. -/
theorem chk_of_recover_ok {s t : State} {z : Size} (hfatal : s.fatal = false) (hholds : s.HoldsMnemonic z)
    (hexec : exec .recover s = .next t) (hok : t.err = 0#4) :
    chk ((s.pack z.nWords).take z.entW) z.csW = (s.pack z.nWords).drop z.entW := by
  obtain ⟨t', hexec', herr⟩ := recover_err hfatal hholds
  obtain rfl : t' = t := Host.Outcome.next.inj (hexec'.symm.trans hexec)
  by_contra hchk
  rw [if_neg hchk, hok] at herr
  cases herr

/-! ### A changed last word (R102) -/

/-- The state with another last word. -/
def State.withLastWord (s : State) (z : Size) (w : Idx) : State := s.putSlot (z.nWords - 1) { v := true, idx := w }

theorem Size.last_lt (z : Size) : z.nWords - 1 < 24 := by
  cases z <;> decide

theorem slot_withLastWord_last (s : State) (z : Size) (w : Idx) :
    (s.withLastWord z w).slot (z.nWords - 1) = { v := true, idx := w } := slot_putSlot_self s _ z.last_lt

theorem slot_withLastWord_of_lt (s : State) {z : Size} (w : Idx) {i : Nat} (hi : i < z.nWords - 1) :
    (s.withLastWord z w).slot i = s.slot i := slot_putSlot_of_ne s _ (Nat.ne_of_gt hi)

theorem holdsMnemonic_withLastWord {s : State} {z : Size} (w : Idx) (hholds : s.HoldsMnemonic z) :
    (s.withLastWord z w).HoldsMnemonic z := by
  obtain ⟨hcount, hv⟩ := hholds
  refine ⟨hcount, fun i hi => ?_⟩
  rcases Nat.lt_or_ge i (z.nWords - 1) with hlt | hge
  · rw [slot_withLastWord_of_lt s w hlt, hv i hi]
  · obtain rfl : i = z.nWords - 1 := by omega
    rw [slot_withLastWord_last]

theorem pack_congr {s t : State} {n : Nat} (h : ∀ i < n, s.slot i = t.slot i) : s.pack n = t.pack n := by
  induction n with
  | zero => rfl
  | succ n ih => rw [pack_succ, pack_succ, ih fun i hi => h i (by omega), h n (by omega)]

/-- The entropy bits of the changed mnemonic: those of the words before the last, and the new suffix. -/
theorem take_pack_withLastWord (s : State) (z : Size) (w : Idx) :
    ((s.withLastWord z w).pack z.nWords).take z.entW =
      s.pack (z.nWords - 1) ++ bin z.addW (w.toNat / 2 ^ z.csW) := by
  rw [take_pack_nWords, State.lastSuffix, slot_withLastWord_last,
    pack_congr fun i hi => slot_withLastWord_of_lt s w hi]

theorem drop_pack_withLastWord (s : State) (z : Size) (w : Idx) :
    ((s.withLastWord z w).pack z.nWords).drop z.entW = bin z.csW w.toNat := by
  rw [drop_pack_nWords, slot_withLastWord_last]

/-- Two numbers with one quotient and one string of low bits. -/
theorem eq_of_div_eq_of_bin_eq {c m n : Nat} (hdiv : m / 2 ^ c = n / 2 ^ c) (hbin : bin c m = bin c n) : m = n := by
  have hmod : m % 2 ^ c = n % 2 ^ c := by rw [← val_bin, hbin, val_bin]
  rw [← Nat.div_add_mod m (2 ^ c), hdiv, hmod, Nat.div_add_mod]

/-- Settles O30: with the suffix the entropy stays, and so does its checksum, which the new word then does not carry. -/
theorem changedLastWordIsCaughtByItsChecksum : Obligations.ChangedLastWordIsCaughtByItsChecksum := by
  intro s t z w hfatal hholds hexec hok hne
  have hold := chk_of_recover_ok hfatal hholds hexec hok
  obtain ⟨u, hu, herr⟩ := recover_err (s := s.withLastWord z w) hfatal (holdsMnemonic_withLastWord w hholds)
  rw [take_pack_withLastWord, drop_pack_withLastWord] at herr
  refine ⟨u, hu, fun hsuffix => ?_, fun _ => ?_⟩
  · rw [herr, if_neg]
    intro hchk
    rw [take_pack_nWords, State.lastSuffix, ← hsuffix, hchk, drop_pack_nWords] at hold
    exact hne (BitVec.eq_of_toNat_eq (eq_of_div_eq_of_bin_eq hsuffix hold))
  · rw [herr, bin_mod]
    split <;> simp [*]

/-! ### ENCODE after RECOVER (R114) -/

theorem Size.ofElen_elen (z : Size) : Size.ofElen z.elen = z := by
  cases z <;> rfl

theorem Size.elen_ofElen (b : Bool) : (Size.ofElen b).elen = b := by
  cases b <;> rfl

theorem size_of_elen {s : State} {z : Size} (h : s.elen = z.elen) : s.size = z := by
  rw [State.size, h, z.ofElen_elen]

theorem emit_slot_of_pack {s t : State} {z : Size} {e : Bits} (hpack : e ++ chk e z.csW = s.pack z.nWords) {j : Nat}
    (hj : j < z.nWords) : (emit t z e).slot j = { v := true, idx := (s.slot j).idx } := by
  rw [slot_emit_of_lt t e hj, hpack, split_pack, List.getD_eq_getElem _ _ (by simpa using hj), List.getElem_map,
    List.getElem_range]

/-- Settles O38: the entropy and its checksum are the packed indices, whose split is the indices. -/
theorem encodeOfRecoverIsTheMnemonic : Obligations.EncodeOfRecoverIsTheMnemonic := by
  intro s t z hfatal hholds hexec hok
  have hchk := chk_of_recover_ok hfatal hholds hexec hok
  obtain ⟨t', hexec', hent, -, e, r, ht⟩ := exec_recover_of_chk hfatal hholds hchk
  obtain rfl : t' = t := Host.Outcome.next.inj (hexec'.symm.trans hexec)
  have helen : t'.elen = z.elen := by rw [ht]; rfl
  have hfatal' : t'.fatal = false := by rw [ht]; exact hfatal
  have hpack : t'.entbits z ++ chk (t'.entbits z) z.csW = s.pack z.nWords := by
    rw [hent, hchk, List.take_append_drop]
  obtain ⟨hcount, -⟩ := hholds
  refine ⟨hent, helen, _, exec_encode hfatal', rfl, ?_, fun j hj => ?_, fun j hj => ?_⟩
  · rw [size_of_elen helen]
    exact BitVec.eq_of_toNat_eq ((toNat_emit_mnlen t' z (t'.entbits z)).trans hcount.symm)
  · rw [size_of_elen helen]
    exact emit_slot_of_pack (t := t') hpack hj
  · rw [size_of_elen helen]
    exact slot_emit_of_le t' _ hj

/-! ### RECOVER after ENCODE (R114) -/

/-- RECOVER of the mnemonic of an entropy gives that entropy. -/
theorem recover_of_holdsMnemonicOf {t : State} {z : Size} {e : Bits} (hfatal : t.fatal = false)
    (he : e.length = z.entW) (hholds : t.HoldsMnemonicOf z e) :
    ∃ u, exec .recover t = .next u ∧ u.err = 0#4 ∧ u.elen = z.elen ∧ u.entbits z = e ∧
      ∀ k, z.entW / 32 ≤ k → u.entWord k = 0#32 := by
  obtain ⟨hmnemonic, hpack, -⟩ := hholds
  have htake : (t.pack z.nWords).take z.entW = e := by rw [hpack, List.take_left' he]
  have hdrop : (t.pack z.nWords).drop z.entW = chk e z.csW := by rw [hpack, List.drop_left' he]
  obtain ⟨u, hexec, hent, hpast, e', r, hu⟩ := exec_recover_of_chk hfatal hmnemonic (by rw [htake, hdrop])
  exact ⟨u, hexec, by rw [hu]; rfl, by rw [hu]; rfl, hent.trans htake, hpast⟩

/-- Settles O39: ENCODE leaves the mnemonic of the entropy. -/
theorem recoverOfEncodeIsTheEntropy : Obligations.RecoverOfEncodeIsTheEntropy := by
  intro s t hfatal hexec
  have hlength := length_entbits s s.size
  have hholds := holdsMnemonicOf_emit s hlength
  obtain rfl := Host.Outcome.next.inj ((exec_encode hfatal).symm.trans hexec)
  obtain ⟨u, hu, herr, helen, hent, hpast⟩ :=
    recover_of_holdsMnemonicOf (t := (emit s s.size (s.entbits s.size)).completedAs 0#4) hfatal hlength
      (holdsMnemonicOf_completedAs.2 hholds)
  exact ⟨u, hu, herr, helen.trans (Size.elen_ofElen s.elen), hent, hpast⟩

end Sys2Proof.Machine

/-! The session (spec/43_xor_combiner.md R103 to R108; spec/44_seed_reconstructor.md R115): the laws of XOR on strings,
one ACCUM as one XOR of the register files, a session as a fold of them, and two pads through RECOVER to FINALIZE. -/

namespace Sys2Proof.Machine

/-! ### The laws of XOR (R17, R108) -/

@[simp] theorem xorBits_cons (x y : Bool) (a b : Bits) : xorBits (x :: a) (y :: b) = (x ^^ y) :: xorBits a b := rfl

theorem xorBits_comm (a b : Bits) : xorBits a b = xorBits b a := List.zipWith_comm_of_comm Bool.xor_comm

theorem xorBits_assoc (a b c : Bits) : xorBits (xorBits a b) c = xorBits a (xorBits b c) := by
  induction a generalizing b c with
  | nil => rfl
  | cons x a ih =>
    cases b with
    | nil => rfl
    | cons y b =>
      cases c with
      | nil => rfl
      | cons z c => simp [ih]

theorem xorBits_self (a : Bits) : xorBits a a = zeros a.length := by
  induction a with
  | nil => rfl
  | cons x a ih => simp [ih, zeros, List.replicate_succ]

theorem xorBits_zeros {a : Bits} {n : Nat} (ha : a.length = n) : xorBits a (zeros n) = a := by
  subst ha
  induction a with
  | nil => rfl
  | cons x a ih => simpa [zeros, List.replicate_succ] using ih

theorem zeros_xorBits {a : Bits} {n : Nat} (ha : a.length = n) : xorBits (zeros n) a = a := by
  rw [xorBits_comm, xorBits_zeros ha]

/-- Settles O34: position by position, from the laws of the exclusive or of two bits. -/
theorem xorLaws : Obligations.XorLaws := by
  intro n a b c ha hb _
  refine ⟨xorBits_comm a b, xorBits_assoc a b c, by rw [xorBits_self, ha], ?_⟩
  rw [xorBits_assoc, xorBits_self, hb, xorBits_zeros ha]

/-! ### XOR of registers and of their strings (R19, R106) -/

theorem bin_xor (n v w : Nat) : bin n (v ^^^ w) = xorBits (bin n v) (bin n w) := by
  induction n with
  | zero => rfl
  | succ n ih => rw [bin_succ, bin_succ, bin_succ, xorBits_cons, ih, Nat.testBit_xor]

theorem wordBits_xor (v w : Word) : wordBits (v ^^^ w) = xorBits (wordBits v) (wordBits w) := by
  rw [wordBits, BitVec.toNat_xor, bin_xor, wordBits, wordBits]

theorem xorBits_append {a a' b b' : Bits} (h : a.length = b.length) :
    xorBits (a ++ a') (b ++ b') = xorBits a b ++ xorBits a' b' := List.zipWith_append h

theorem regBits_zipWith_xor (vs ws : List Word) :
    regBits (List.zipWith (· ^^^ ·) vs ws) = xorBits (regBits vs) (regBits ws) := by
  induction vs generalizing ws with
  | nil => rfl
  | cons v vs ih =>
    cases ws with
    | nil => simp [xorBits]
    | cons w ws =>
      rw [List.zipWith_cons_cons, regBits_cons, regBits_cons, regBits_cons, ih, wordBits_xor,
        xorBits_append (by simp)]

/-- The registers below the length XORed, the others as they are: ACC after an ACCUM of the pad `e` (R106). -/
def xorFile (z : Size) (acc e : Vector Word 8) : Vector Word 8 :=
  Vector.ofFn fun k => if k.val < z.entW / 32 then acc[k] ^^^ e[k] else acc[k]

theorem xorAcc_eq_xorFile (s : State) (z : Size) : s.xorAcc z = xorFile z s.acc s.ent := rfl

theorem xorFile_getElem (z : Size) (acc e : Vector Word 8) {k : Nat} (hk : k < 8) :
    (xorFile z acc e)[k] = if k < z.entW / 32 then acc[k] ^^^ e[k] else acc[k] := by
  simp [xorFile]

theorem fileBits_xorFile (z : Size) (acc e : Vector Word 8) :
    fileBits (xorFile z acc e) z = xorBits (fileBits acc z) (fileBits e z) := by
  rw [fileBits, fileBits, fileBits, ← regBits_zipWith_xor]
  refine congrArg regBits (List.ext_getElem (by simp) fun k hk _ => ?_)
  have hlow : k < z.entW / 32 := by simp at hk; omega
  have h8 : k < 8 := by simp at hk; omega
  rw [List.getElem_zipWith, List.getElem_take, List.getElem_take, List.getElem_take, Vector.getElem_toList,
    Vector.getElem_toList, Vector.getElem_toList, xorFile_getElem z acc e h8, if_pos hlow]

theorem xorFile_right_comm (z : Size) (acc e e' : Vector Word 8) :
    xorFile z (xorFile z acc e) e' = xorFile z (xorFile z acc e') e := by
  refine Vector.ext fun k hk => ?_
  simp only [xorFile_getElem z _ _ hk]
  split
  · rw [BitVec.xor_assoc, BitVec.xor_comm e[k], ← BitVec.xor_assoc]
  · rfl

theorem xorFile_xorFile_self (z : Size) (acc e : Vector Word 8) : xorFile z (xorFile z acc e) e = acc := by
  refine Vector.ext fun k hk => ?_
  simp only [xorFile_getElem z _ _ hk]
  split
  · rw [BitVec.xor_assoc, BitVec.xor_self, BitVec.xor_zero]
  · rfl

/-! ### One ACCUM (R106) -/

/-- An ACCUM of a pad of size `z` is taken: the word list is sound, and the session empty or of that size. -/
def Accepts (z : Size) (s : State) : Prop := s.fatal = false ∧ (s.slen = 0#2 ∨ s.slen = z.slen)

/-- The state with a pad of size `z` in ENT. -/
def State.withPad (z : Size) (s : State) (e : Vector Word 8) : State := { s with ent := e, elen := z.elen }

theorem accumulate_eq_of_exec {z : Size} {s t : State} {e : Vector Word 8}
    (h : exec .accum (s.withPad z e) = .next t) : accumulate z s e = t := by
  have hpad : { s with ent := e, elen := z.elen } = s.withPad z e := rfl
  rw [accumulate, hpad, h]

theorem accumulate_of_accepts {z : Size} {s : State} (h : Accepts z s) (e : Vector Word 8) :
    accumulate z s e =
      { s.withPad z e with
        acc := xorFile z s.acc e, slen := z.slen, padcnt := padcntNext s.padcnt,
        result := (padcntNext s.padcnt).setWidth 32 }.completedAs 0#4 := by
  obtain ⟨hfatal, hslen⟩ := h
  have hsize : (s.withPad z e).size = z := size_of_elen rfl
  have hexec := exec_accum_of_fits (s := s.withPad z e) hfatal (by rw [hsize]; exact hslen)
  rw [hsize, xorAcc_eq_xorFile] at hexec
  exact accumulate_eq_of_exec hexec

/-- A pad that is not taken leaves the session and FATAL. -/
theorem accumulate_of_not_accepts {z : Size} {s : State} (h : ¬ Accepts z s) (e : Vector Word 8) :
    ∃ r code, accumulate z s e = { s.withPad z e with result := r }.completedAs code := by
  cases hfatal : s.fatal with
  | true => exact ⟨_, _, accumulate_eq_of_exec (exec_of_fatal .accum (s := s.withPad z e) hfatal)⟩
  | false =>
    have hsize : (s.withPad z e).size = z := size_of_elen rfl
    have hslen : ¬ (s.slen = 0#2 ∨ s.slen = z.slen) := fun hfits => h ⟨hfatal, hfits⟩
    obtain ⟨hsession, hother⟩ := not_or.1 hslen
    exact ⟨_, _, accumulate_eq_of_exec
      (exec_accum_of_otherLength (s := s.withPad z e) hfatal hsession (by rw [hsize]; exact hother))⟩

theorem accepts_accumulate_iff {z : Size} {s : State} {e : Vector Word 8} :
    Accepts z (accumulate z s e) ↔ Accepts z s := by
  by_cases h : Accepts z s
  · rw [accumulate_of_accepts h]
    exact iff_of_true ⟨h.1, .inr rfl⟩ h
  · obtain ⟨r, code, haccum⟩ := accumulate_of_not_accepts h e
    rw [haccum]
    exact Iff.rfl

/-! ### The order of the pads (R108) -/

theorem foldl_accumulate_acc_of_accepts {z : Size} {s : State} (h : Accepts z s) (es : List (Vector Word 8)) :
    (es.foldl (accumulate z) s).acc = es.foldl (xorFile z) s.acc := by
  induction es generalizing s with
  | nil => rfl
  | cons e es ih =>
    rw [List.foldl_cons, List.foldl_cons, ih (accepts_accumulate_iff.2 h), accumulate_of_accepts h]
    rfl

theorem foldl_accumulate_acc_of_not_accepts {z : Size} {s : State} (h : ¬ Accepts z s) (es : List (Vector Word 8)) :
    (es.foldl (accumulate z) s).acc = s.acc := by
  induction es generalizing s with
  | nil => rfl
  | cons e es ih =>
    obtain ⟨r, code, haccum⟩ := accumulate_of_not_accepts h e
    rw [List.foldl_cons, ih (accepts_accumulate_iff.not.2 h), haccum]
    rfl

theorem foldl_accumulate_perm (z : Size) (s : State) {es es' : List (Vector Word 8)} (hperm : es.Perm es') :
    (es.foldl (accumulate z) s).acc = (es'.foldl (accumulate z) s).acc := by
  by_cases h : Accepts z s
  · rw [foldl_accumulate_acc_of_accepts h, foldl_accumulate_acc_of_accepts h]
    exact hperm.foldl_eq' (fun e _ e' _ acc => xorFile_right_comm z acc e e') s.acc
  · rw [foldl_accumulate_acc_of_not_accepts h, foldl_accumulate_acc_of_not_accepts h]

theorem accumulate_twice_acc (z : Size) (s : State) (e : Vector Word 8) :
    (accumulate z (accumulate z s e) e).acc = s.acc := by
  by_cases h : Accepts z s
  · exact (foldl_accumulate_acc_of_accepts h [e, e]).trans (xorFile_xorFile_self z s.acc e)
  · exact foldl_accumulate_acc_of_not_accepts h [e, e]

/-- Settles O35: the pads of a session are all taken or none is, and XOR of the registers commutes and cancels. -/
theorem accumOrderDoesNotMatter : Obligations.AccumOrderDoesNotMatter :=
  ⟨fun z s _ _ hperm => foldl_accumulate_perm z s hperm, accumulate_twice_acc⟩

/-! ### A session (R104) -/

/-- A session of `n` pads of size `z` whose combination is `b`. -/
structure SessionOf (z : Size) (b : Bits) (n : Nat) (t : State) : Prop where
  fatal_eq : t.fatal = false
  accbits_eq : t.accbits z = b
  padcnt_eq : t.padcnt.toNat = min n 255
  slen_eq : t.slen = z.slen
  err_eq : t.err = 0#4
  past_eq : ∀ k, z.entW / 32 ≤ k → t.accWord k = 0#32

/-- A register of ACC past the length is not written by an ACCUM. -/
theorem accWord_of_acc_eq_xorFile {s t : State} {z : Size} {e : Vector Word 8} (hacc : t.acc = xorFile z s.acc e)
    {k : Nat} (hk : z.entW / 32 ≤ k) : t.accWord k = s.accWord k := by
  rcases Nat.lt_or_ge k 8 with h8 | h8
  · rw [accWord_of_lt t h8, accWord_of_lt s h8, hacc, xorFile_getElem z _ _ h8, if_neg (Nat.not_lt.2 hk)]
  · rw [State.accWord, State.accWord, getD_toList_of_le _ _ h8, getD_toList_of_le _ _ h8]

theorem sessionOf_accumulate {z : Size} {b : Bits} {n : Nat} {s : State} (h : SessionOf z b n s)
    (e : Vector Word 8) : SessionOf z (xorBits b (fileBits e z)) (n + 1) (accumulate z s e) := by
  obtain ⟨hfatal, haccbits, hpadcnt, hslen, -, hpast⟩ := h
  rw [accumulate_of_accepts ⟨hfatal, .inr hslen⟩]
  refine ⟨hfatal, ?_, ?_, rfl, rfl, fun k hk => ?_⟩
  · rw [← haccbits]
    exact fileBits_xorFile z s.acc e
  · refine (toNat_padcntNext s.padcnt).trans ?_
    omega
  · exact (accWord_of_acc_eq_xorFile rfl hk).trans (hpast k hk)

theorem sessionOf_foldl_accumulate {z : Size} {b : Bits} {n : Nat} {s : State} (h : SessionOf z b n s)
    (es : List (Vector Word 8)) :
    SessionOf z ((es.map fun x => fileBits x z).foldl xorBits b) (n + es.length) (es.foldl (accumulate z) s) := by
  induction es generalizing s b n with
  | nil => exact h
  | cons e es ih =>
    rw [List.map_cons, List.foldl_cons, List.foldl_cons, List.length_cons, Nat.add_comm es.length, ← Nat.add_assoc]
    exact ih (sessionOf_accumulate h e)

/-- A state with an empty session. -/
structure EmptySession (s : State) : Prop where
  fatal_eq : s.fatal = false
  acc_eq : s.acc = Vector.replicate 8 0#32
  padcnt_eq : s.padcnt = 0#8
  slen_eq : s.slen = 0#2

theorem emptySession_of_clrsess {s c : State} (hfatal : s.fatal = false) (hexec : exec .clrsess s = .next c) :
    EmptySession c := by
  obtain rfl := Host.Outcome.next.inj ((exec_clrsess hfatal).symm.trans hexec)
  exact ⟨hfatal, rfl, rfl, rfl⟩

theorem regBits_replicate_zero (n : Nat) : regBits (List.replicate n 0#32) = zeros (32 * n) := by
  have hword : wordBits 0#32 = zeros 32 := by decide
  induction n with
  | zero => rfl
  | succ n ih =>
    rw [List.replicate_succ, regBits_cons, ih, hword, zeros, zeros, List.replicate_append_replicate, zeros,
      Nat.mul_succ, Nat.add_comm]

theorem fileBits_replicate_zero (z : Size) : fileBits (Vector.replicate 8 0#32) z = zeros z.entW := by
  have hregs : (Vector.replicate 8 0#32).toList.take (z.entW / 32) = List.replicate (z.entW / 32) 0#32 := by
    cases z <;> rfl
  have hlength : 32 * (z.entW / 32) = z.entW := by cases z <;> rfl
  rw [fileBits, hregs, regBits_replicate_zero, hlength]

theorem accWord_of_emptySession {s : State} (h : EmptySession s) (k : Nat) : s.accWord k = 0#32 := by
  rcases Nat.lt_or_ge k 8 with h8 | h8
  · rw [accWord_of_lt s h8]
    simp [h.acc_eq]
  · exact getD_toList_of_le _ _ h8

/-- The first pad of a session. -/
theorem sessionOf_accumulate_of_empty {c : State} (h : EmptySession c) (z : Size) (e : Vector Word 8) :
    SessionOf z (fileBits e z) 1 (accumulate z c e) := by
  rw [accumulate_of_accepts ⟨h.fatal_eq, .inl h.slen_eq⟩]
  refine ⟨h.fatal_eq, ?_, ?_, rfl, rfl, fun k hk => ?_⟩
  · refine (fileBits_xorFile z c.acc e).trans ?_
    rw [h.acc_eq, fileBits_replicate_zero, zeros_xorBits (length_fileBits e z)]
  · refine (toNat_padcntNext c.padcnt).trans ?_
    rw [h.padcnt_eq]
    rfl
  · exact (accWord_of_acc_eq_xorFile rfl hk).trans (accWord_of_emptySession h k)

/-- Settles O33: the first pad, then the others by induction. -/
theorem sessionHoldsTheCombination : Obligations.SessionHoldsTheCombination := by
  intro z s c e es hfatal hclrsess t
  have hfirst := sessionOf_accumulate_of_empty (emptySession_of_clrsess hfatal hclrsess) z e
  obtain ⟨-, haccbits, hpadcnt, hslen, herr, hpast⟩ := sessionOf_foldl_accumulate hfirst es
  exact ⟨haccbits, by rw [Nat.add_comm es.length]; exact hpadcnt, hslen, herr, hpast⟩

/-! ### Two pads (R115) -/

theorem toNat_ofNat_nWords (z : Size) : (BitVec.ofNat 8 z.nWords).toNat = z.nWords := by
  cases z <;> rfl

theorem Size.nWords_inj {z z' : Size} (h : z.nWords = z'.nWords) : z = z' :=
  Option.some.inj ((size_ofCount_eq_some.2 rfl).symm.trans (size_ofCount_eq_some.2 h))

/-- A VALIDATE that is not valid reports an error. -/
theorem validateOutcome_code_ne_ok {s : State} (hinvalid : ∀ z, validate s ≠ .valid z) :
    (validateOutcome s).code ≠ .ok := by
  cases hvalidate : validate s with
  | valid z => exact absurd hvalidate (hinvalid z)
  | invalidWordCount => rw [validateOutcome_of_invalidWordCount hvalidate]; exact Code.noConfusion
  | invalidWords m => rw [validateOutcome_of_invalidWords hvalidate]; exact Code.noConfusion

theorem code_eq_ok_of_bits {c : Code} (h : c.bits = 0#4) : c = .ok := by
  cases c with
  | ok => rfl
  | _ => cases h

/-- The size of a valid mnemonic is that of its count (R95). -/
theorem mnlen_of_validate {s : State} {z : Size} (h : validate s = .valid z) : s.mnlen.toNat = z.nWords := by
  rcases validate_cases s with ⟨hcount, -⟩ | ⟨z', hcount, ⟨hvalid, -⟩ | ⟨hwords, -⟩⟩
  · cases hcount.symm.trans h
  · cases hvalid.symm.trans h
    exact hcount
  · cases hwords.symm.trans h

/-- What a RECOVER that completed OK leaves, of the size that the word count stands for. -/
theorem recover_ok_frame {s t : State} {z : Size} (hfatal : s.fatal = false)
    (hcount : s.mnlen = BitVec.ofNat 8 z.nWords)
    (hexec : exec .recover s = .next t) (hok : t.err = 0#4) :
    ∃ e r, t = { s with ent := e, elen := z.elen, invmask := 0#24, result := r }.completedAs 0#4 := by
  obtain rfl := Host.Outcome.next.inj ((exec_recover hfatal).symm.trans hexec)
  have hcode : (recoverOutcome s).code = .ok := code_eq_ok_of_bits hok
  rcases recoverOutcome_cases s with ⟨hinvalid, h⟩ | ⟨z', hvalid, ⟨-, h⟩ | ⟨f, -, h⟩⟩
  · rw [h] at hcode
    exact absurd hcode (validateOutcome_code_ne_ok hinvalid)
  · rw [h] at hcode
    cases hcode
  · have hz : z' = z := by
      refine Size.nWords_inj ((mnlen_of_validate hvalid).symm.trans ?_)
      rw [hcount, toNat_ofNat_nWords]
    rw [h, hz]
    exact ⟨_, _, rfl⟩

theorem withPad_self {s : State} {z : Size} (helen : s.elen = z.elen) : s.withPad z s.ent = s := by
  rw [State.withPad, ← helen]

/-- An ACCUM is the accumulation of the pad that ENT holds. -/
theorem accumulate_eq_of_accum {s t : State} {z : Size} (helen : s.elen = z.elen) (hexec : exec .accum s = .next t) :
    accumulate z s s.ent = t :=
  accumulate_eq_of_exec ((congrArg (exec .accum) (withPad_self helen)).trans hexec)

/-- The host's write of the slots and the word count of a mnemonic of size `z`. -/
def State.withMnemonic (s : State) (z : Size) (m : Vector Slot 24) : State :=
  { s with mn := m, mnlen := BitVec.ofNat 8 z.nWords }

/-- The first pad of a session, from the host's write of its slots to its ACCUM. -/
theorem sessionOf_firstPad {z : Size} {c p a : State} {m : Vector Slot 24} (hempty : EmptySession c)
    (hrecover : exec .recover (c.withMnemonic z m) = .next p) (hok : p.err = 0#4)
    (haccum : exec .accum p = .next a) : SessionOf z (p.entbits z) 1 a := by
  obtain ⟨hfatal, hacc, hpadcnt, hslen⟩ := hempty
  obtain ⟨e, r, hp⟩ := recover_ok_frame (s := c.withMnemonic z m) hfatal rfl hrecover hok
  have helen : p.elen = z.elen := by rw [hp]; rfl
  have hemptyPad : EmptySession p := by rw [hp]; exact ⟨hfatal, hacc, hpadcnt, hslen⟩
  rw [← accumulate_eq_of_accum helen haccum]
  exact sessionOf_accumulate_of_empty hemptyPad z p.ent

/-- A further pad, likewise. -/
theorem sessionOf_nextPad {z : Size} {b : Bits} {n : Nat} {s p a : State} {m : Vector Slot 24} (hs : SessionOf z b n s)
    (hrecover : exec .recover (s.withMnemonic z m) = .next p) (hok : p.err = 0#4)
    (haccum : exec .accum p = .next a) : SessionOf z (xorBits b (p.entbits z)) (n + 1) a := by
  obtain ⟨hfatal, haccbits, hpadcnt, hslen, -, hpast⟩ := hs
  obtain ⟨e, r, hp⟩ := recover_ok_frame (s := s.withMnemonic z m) hfatal rfl hrecover hok
  have helen : p.elen = z.elen := by rw [hp]; rfl
  have hpad : SessionOf z b n p := by rw [hp]; exact ⟨hfatal, haccbits, hpadcnt, hslen, rfl, hpast⟩
  rw [← accumulate_eq_of_accum helen haccum]
  exact sessionOf_accumulate hpad p.ent

/-- Settles O40: two pads make a session of two, whose combination FINALIZE emits. -/
theorem twoPadReconstruction : Obligations.TwoPadReconstruction := by
  intro z s c p1 a1 p2 a2 m1 m2 hfatal hclrsess hrecover1 hok1 haccum1 hrecover2 hok2 haccum2
  have hfirst := sessionOf_firstPad (emptySession_of_clrsess hfatal hclrsess) hrecover1 hok1 haccum1
  obtain ⟨hfatal2, haccbits, hpadcnt, hslen, -, -⟩ := sessionOf_nextPad hfirst hrecover2 hok2 haccum2
  have hholds := holdsMnemonicOf_emit (a2.withCombined z) (length_accbits a2 z)
  refine ⟨_, exec_finalize_of_session hfatal2 (by rw [hpadcnt]; decide) hslen, rfl, ?_⟩
  rw [← haccbits]
  exact holdsMnemonicOf_completedAs.2 hholds

end Sys2Proof.Machine
